-- ==== Sys2Proof/Word.lean ====
section
/-! DEFINITION. The two word sizes of the machine: registers and memory cells are bytes (R20, R50), the program
counter, the index register, the stack slots and the opcode latch are 16 bits wide (R23, R26, R28, R35). Every value
is unsigned (R6). -/

namespace Sys2Proof

/-- An 8-bit value (R20, R50). -/
abbrev Byte := BitVec 8

/-- A 16-bit value (R23, R26, R28, R35, R70). -/
abbrev Word := BitVec 16

end Sys2Proof
end

