-- ==== Sys2Proof/Syntax.lean ====
section
/-! DEFINITION. The 34 instructions of R78, one constructor per row of spec/opcode_table.json, in the table's order and
named after the table's mnemonics. Operands have the widths of their fields (R71, R77), so that no value of an operand is
out of range (R81). The ignored field `y` of 8xy6 and 8xyE is kept (R21, R115, R117), so that an instruction determines
its word. -/

namespace Sys2Proof

/-- A register number, 0 to 15 (R20). -/
abbrev Reg := Fin 16

/-- Register 15, which doubles as the flag `VF` (R22). -/
abbrev Reg.vf : Reg := 15

/-- A 12-bit address operand `nnn` (R77). -/
abbrev Addr := BitVec 12

/-- A 4-bit operand, the row count `n` of Dxyn (R77). -/
abbrev Nibble := BitVec 4

/-- The instruction set `CHIP8-gp97-34` (R1, R78). -/
inductive Instr where
  /-- 00E0 `CLS` (R160) -/
  | cls
  /-- 00EE `RET` (R126) -/
  | ret
  /-- 1nnn `JP nnn` (R128) -/
  | jpNnn (nnn : Addr)
  /-- 2nnn `CALL nnn` (R127) -/
  | callNnn (nnn : Addr)
  /-- 3xkk `SE Vx,kk` (R130) -/
  | seVxKk (x : Reg) (kk : Byte)
  /-- 4xkk `SNE Vx,kk` (R131) -/
  | sneVxKk (x : Reg) (kk : Byte)
  /-- 5xy0 `SE Vx,Vy` (R132) -/
  | seVxVy (x y : Reg)
  /-- 6xkk `LD Vx,kk` (R107) -/
  | ldVxKk (x : Reg) (kk : Byte)
  /-- 7xkk `ADD Vx,kk` (R108) -/
  | addVxKk (x : Reg) (kk : Byte)
  /-- 8xy0 `LD Vx,Vy` (R109) -/
  | ldVxVy (x y : Reg)
  /-- 8xy1 `OR Vx,Vy` (R110) -/
  | orVxVy (x y : Reg)
  /-- 8xy2 `AND Vx,Vy` (R111) -/
  | andVxVy (x y : Reg)
  /-- 8xy3 `XOR Vx,Vy` (R112) -/
  | xorVxVy (x y : Reg)
  /-- 8xy4 `ADD Vx,Vy` (R113) -/
  | addVxVy (x y : Reg)
  /-- 8xy5 `SUB Vx,Vy` (R114) -/
  | subVxVy (x y : Reg)
  /-- 8xy6 `SHR Vx` (R115); `y` is ignored -/
  | shrVx (x y : Reg)
  /-- 8xy7 `SUBN Vx,Vy` (R116) -/
  | subnVxVy (x y : Reg)
  /-- 8xyE `SHL Vx` (R117); `y` is ignored -/
  | shlVx (x y : Reg)
  /-- 9xy0 `SNE Vx,Vy` (R133) -/
  | sneVxVy (x y : Reg)
  /-- Annn `LD I,nnn` (R140) -/
  | ldINnn (nnn : Addr)
  /-- Bnnn `JP V0,nnn` (R129) -/
  | jpV0Nnn (nnn : Addr)
  /-- Cxkk `RND Vx,kk` (R118) -/
  | rndVxKk (x : Reg) (kk : Byte)
  /-- Dxyn `DRW Vx,Vy,n` (R161) -/
  | drwVxVyN (x y : Reg) (n : Nibble)
  /-- Ex9E `SKP Vx` (R150) -/
  | skpVx (x : Reg)
  /-- ExA1 `SKNP Vx` (R151) -/
  | sknpVx (x : Reg)
  /-- Fx07 `LD Vx,DT` (R153) -/
  | ldVxDt (x : Reg)
  /-- Fx0A `LD Vx,K` (R152) -/
  | ldVxK (x : Reg)
  /-- Fx15 `LD DT,Vx` (R154) -/
  | ldDtVx (x : Reg)
  /-- Fx18 `LD ST,Vx` (R155) -/
  | ldStVx (x : Reg)
  /-- Fx1E `ADD I,Vx` (R141) -/
  | addIVx (x : Reg)
  /-- Fx29 `LD F,Vx` (R142) -/
  | ldFVx (x : Reg)
  /-- Fx33 `LD B,Vx` (R143) -/
  | ldBVx (x : Reg)
  /-- Fx55 `LD [I],Vx` (R144) -/
  | ldMemIVx (x : Reg)
  /-- Fx65 `LD Vx,[I]` (R145) -/
  | ldVxMemI (x : Reg)
  deriving DecidableEq, Repr

end Sys2Proof
end

