-- ==== Sys2Proof/Decode.lean ====
section
/-! DEFINITION. Instruction decoding (R70 to R81) and, after it, the encoder written from the same formats, the opcode
map of R78 as data, and the host's `decodeTableWord`. -/

namespace Sys2Proof

/-- Field `op`, bits 15 to 12 (R71). -/
def Word.op (w : Word) : Nibble := w.extractLsb' 12 4

/-- Field `x`, bits 11 to 8, a register number (R71). -/
def Word.x (w : Word) : Reg := (w.extractLsb' 8 4).toFin

/-- Field `y`, bits 7 to 4, a register number (R71). -/
def Word.y (w : Word) : Reg := (w.extractLsb' 4 4).toFin

/-- Field `n`, bits 3 to 0 (R71). -/
def Word.n (w : Word) : Nibble := w.extractLsb' 0 4

/-- Field `kk`, bits 7 to 0 (R71). -/
def Word.kk (w : Word) : Byte := w.extractLsb' 0 8

/-- Field `nnn`, bits 11 to 0 (R71). -/
def Word.nnn (w : Word) : Addr := w.extractLsb' 0 12

/-- Why bytes are not an instruction. -/
inductive DecodeError where
  /-- the word matches none of the 34 patterns (R79) -/
  | unknownOpcode (w : Word)
  /-- fewer than two bytes are given; a fetch never does that (R70, R91) -/
  | truncated
  deriving DecidableEq, Repr

/-- The words with `op = 0`: only 00E0 and 00EE (R80). -/
def decodeOp0 (w : Word) : Except DecodeError Instr :=
  match w.toNat with
  | 0x00E0 => .ok .cls
  | 0x00EE => .ok .ret
  | _ => .error (.unknownOpcode w)

/-- The words with `op = 8`, selected by `n` (R78 rows 10 to 18, R80). -/
def decodeOp8 (w : Word) : Except DecodeError Instr :=
  match w.n.toNat with
  | 0x0 => .ok (.ldVxVy w.x w.y)
  | 0x1 => .ok (.orVxVy w.x w.y)
  | 0x2 => .ok (.andVxVy w.x w.y)
  | 0x3 => .ok (.xorVxVy w.x w.y)
  | 0x4 => .ok (.addVxVy w.x w.y)
  | 0x5 => .ok (.subVxVy w.x w.y)
  | 0x6 => .ok (.shrVx w.x w.y)
  | 0x7 => .ok (.subnVxVy w.x w.y)
  | 0xE => .ok (.shlVx w.x w.y)
  | _ => .error (.unknownOpcode w)

/-- The words with `op = E`, selected by `kk` (R78 rows 24 and 25, R80). -/
def decodeOpE (w : Word) : Except DecodeError Instr :=
  match w.kk.toNat with
  | 0x9E => .ok (.skpVx w.x)
  | 0xA1 => .ok (.sknpVx w.x)
  | _ => .error (.unknownOpcode w)

/-- The words with `op = F`, selected by `kk` (R78 rows 26 to 34, R80). -/
def decodeOpF (w : Word) : Except DecodeError Instr :=
  match w.kk.toNat with
  | 0x07 => .ok (.ldVxDt w.x)
  | 0x0A => .ok (.ldVxK w.x)
  | 0x15 => .ok (.ldDtVx w.x)
  | 0x18 => .ok (.ldStVx w.x)
  | 0x1E => .ok (.addIVx w.x)
  | 0x29 => .ok (.ldFVx w.x)
  | 0x33 => .ok (.ldBVx w.x)
  | 0x55 => .ok (.ldMemIVx w.x)
  | 0x65 => .ok (.ldVxMemI w.x)
  | _ => .error (.unknownOpcode w)

/-- Decoding of one instruction word, total, with every fixed bit of the pattern checked (R79, C1). -/
def decodeWord (w : Word) : Except DecodeError Instr :=
  match w.op.toNat with
  | 0x0 => decodeOp0 w
  | 0x1 => .ok (.jpNnn w.nnn)
  | 0x2 => .ok (.callNnn w.nnn)
  | 0x3 => .ok (.seVxKk w.x w.kk)
  | 0x4 => .ok (.sneVxKk w.x w.kk)
  | 0x5 => if w.n = 0 then .ok (.seVxVy w.x w.y) else .error (.unknownOpcode w)
  | 0x6 => .ok (.ldVxKk w.x w.kk)
  | 0x7 => .ok (.addVxKk w.x w.kk)
  | 0x8 => decodeOp8 w
  | 0x9 => if w.n = 0 then .ok (.sneVxVy w.x w.y) else .error (.unknownOpcode w)
  | 0xA => .ok (.ldINnn w.nnn)
  | 0xB => .ok (.jpV0Nnn w.nnn)
  | 0xC => .ok (.rndVxKk w.x w.kk)
  | 0xD => .ok (.drwVxVyN w.x w.y w.n)
  | 0xE => decodeOpE w
  | 0xF => decodeOpF w
  | _ => .error (.unknownOpcode w)

/-- The word of two bytes in memory order: the byte at the lower address is the high byte (R52). -/
def wordOfBytes (hi lo : Byte) : Word := hi ++ lo

/-- Decoding of a byte sequence as it lies in memory: the instruction of the first two bytes, and the rest (R52, R70). -/
def decodeBytes : List Byte → Except DecodeError (Instr × List Byte)
  | hi :: lo :: rest => (decodeWord (wordOfBytes hi lo)).map fun i => (i, rest)
  | _ => .error .truncated

/-- A register number as a 4-bit field. -/
def Reg.bits (x : Reg) : Nibble := BitVec.ofFin x

/-- Format NNN (R73). -/
def encNNN (op : Nibble) (nnn : Addr) : Word := op ++ nnn

/-- Format XKK (R74), and format X where `kk` is fixed (R76). -/
def encXKK (op : Nibble) (x : Reg) (kk : Byte) : Word := op ++ x.bits ++ kk

/-- Format XY where `n` is fixed, and format XYN (R75). -/
def encXYN (op : Nibble) (x y : Reg) (n : Nibble) : Word := op ++ x.bits ++ y.bits ++ n

/-- The word of an instruction (R72 to R78). -/
def encode : Instr → Word
  | .cls => 0x00E0
  | .ret => 0x00EE
  | .jpNnn nnn => encNNN 0x1 nnn
  | .callNnn nnn => encNNN 0x2 nnn
  | .seVxKk x kk => encXKK 0x3 x kk
  | .sneVxKk x kk => encXKK 0x4 x kk
  | .seVxVy x y => encXYN 0x5 x y 0x0
  | .ldVxKk x kk => encXKK 0x6 x kk
  | .addVxKk x kk => encXKK 0x7 x kk
  | .ldVxVy x y => encXYN 0x8 x y 0x0
  | .orVxVy x y => encXYN 0x8 x y 0x1
  | .andVxVy x y => encXYN 0x8 x y 0x2
  | .xorVxVy x y => encXYN 0x8 x y 0x3
  | .addVxVy x y => encXYN 0x8 x y 0x4
  | .subVxVy x y => encXYN 0x8 x y 0x5
  | .shrVx x y => encXYN 0x8 x y 0x6
  | .subnVxVy x y => encXYN 0x8 x y 0x7
  | .shlVx x y => encXYN 0x8 x y 0xE
  | .sneVxVy x y => encXYN 0x9 x y 0x0
  | .ldINnn nnn => encNNN 0xA nnn
  | .jpV0Nnn nnn => encNNN 0xB nnn
  | .rndVxKk x kk => encXKK 0xC x kk
  | .drwVxVyN x y n => encXYN 0xD x y n
  | .skpVx x => encXKK 0xE x 0x9E
  | .sknpVx x => encXKK 0xE x 0xA1
  | .ldVxDt x => encXKK 0xF x 0x07
  | .ldVxK x => encXKK 0xF x 0x0A
  | .ldDtVx x => encXKK 0xF x 0x15
  | .ldStVx x => encXKK 0xF x 0x18
  | .addIVx x => encXKK 0xF x 0x1E
  | .ldFVx x => encXKK 0xF x 0x29
  | .ldBVx x => encXKK 0xF x 0x33
  | .ldMemIVx x => encXKK 0xF x 0x55
  | .ldVxMemI x => encXKK 0xF x 0x65

/-- A row of the opcode map: a word `w` is this instruction exactly when `w AND mask = pattern` (R78). -/
structure OpcodeRow where
  pattern : Word
  mask : Word
  deriving DecidableEq, Repr

/-- A word satisfies a row of the opcode map (R78). -/
def OpcodeRow.selects (r : OpcodeRow) (w : Word) : Bool := w &&& r.mask == r.pattern

/-- The opcode map, rows 1 to 17 of R78. -/
def opcodeMapFirst : List OpcodeRow :=
  [⟨0x00E0, 0xFFFF⟩, ⟨0x00EE, 0xFFFF⟩, ⟨0x1000, 0xF000⟩, ⟨0x2000, 0xF000⟩, ⟨0x3000, 0xF000⟩, ⟨0x4000, 0xF000⟩,
   ⟨0x5000, 0xF00F⟩, ⟨0x6000, 0xF000⟩, ⟨0x7000, 0xF000⟩, ⟨0x8000, 0xF00F⟩, ⟨0x8001, 0xF00F⟩, ⟨0x8002, 0xF00F⟩,
   ⟨0x8003, 0xF00F⟩, ⟨0x8004, 0xF00F⟩, ⟨0x8005, 0xF00F⟩, ⟨0x8006, 0xF00F⟩, ⟨0x8007, 0xF00F⟩]

/-- The opcode map, rows 18 to 34 of R78. -/
def opcodeMapSecond : List OpcodeRow :=
  [⟨0x800E, 0xF00F⟩, ⟨0x9000, 0xF00F⟩, ⟨0xA000, 0xF000⟩, ⟨0xB000, 0xF000⟩, ⟨0xC000, 0xF000⟩, ⟨0xD000, 0xF000⟩,
   ⟨0xE09E, 0xF0FF⟩, ⟨0xE0A1, 0xF0FF⟩, ⟨0xF007, 0xF0FF⟩, ⟨0xF00A, 0xF0FF⟩, ⟨0xF015, 0xF0FF⟩, ⟨0xF018, 0xF0FF⟩,
   ⟨0xF01E, 0xF0FF⟩, ⟨0xF029, 0xF0FF⟩, ⟨0xF033, 0xF0FF⟩, ⟨0xF055, 0xF0FF⟩, ⟨0xF065, 0xF0FF⟩]

/-- The 34 rows of the opcode map in the order of R78. -/
def opcodeMap : List OpcodeRow := opcodeMapFirst ++ opcodeMapSecond

/-- The place of an instruction's row in the opcode map, counted from 0 (R78 counts from 1). -/
def Instr.rowIndex : Instr → Fin 34
  | .cls => 0
  | .ret => 1
  | .jpNnn _ => 2
  | .callNnn _ => 3
  | .seVxKk _ _ => 4
  | .sneVxKk _ _ => 5
  | .seVxVy _ _ => 6
  | .ldVxKk _ _ => 7
  | .addVxKk _ _ => 8
  | .ldVxVy _ _ => 9
  | .orVxVy _ _ => 10
  | .andVxVy _ _ => 11
  | .xorVxVy _ _ => 12
  | .addVxVy _ _ => 13
  | .subVxVy _ _ => 14
  | .shrVx _ _ => 15
  | .subnVxVy _ _ => 16
  | .shlVx _ _ => 17
  | .sneVxVy _ _ => 18
  | .ldINnn _ => 19
  | .jpV0Nnn _ => 20
  | .rndVxKk _ _ => 21
  | .drwVxVyN _ _ _ => 22
  | .skpVx _ => 23
  | .sknpVx _ => 24
  | .ldVxDt _ => 25
  | .ldVxK _ => 26
  | .ldDtVx _ => 27
  | .ldStVx _ => 28
  | .addIVx _ => 29
  | .ldFVx _ => 30
  | .ldBVx _ => 31
  | .ldMemIVx _ => 32
  | .ldVxMemI _ => 33

/-- The row of the opcode map that an instruction belongs to (R78). -/
def Instr.row (i : Instr) : OpcodeRow := opcodeMap[i.rowIndex.val]'(i.rowIndex.isLt)

/-- The two bytes of the first word of a table row's bits, in memory order (R52); bits above `nbits` are 0. -/
def tableBytes (nbits w : Nat) : List Byte :=
  let first : Word := BitVec.ofNat 16 (w % 2 ^ nbits)
  [first.extractLsb' 8 8, first.extractLsb' 0 8]

/-- The instruction that this decoder reads from an instruction whose bits are `w`, numbered as
spec/opcode_table.json numbers them; the word is laid out as memory holds it and read back from there. -/
def decodeTableWord (nbits w : Nat) : Option Instr :=
  match decodeBytes (tableBytes nbits w) with
  | .ok (i, _) => some i
  | .error _ => none

end Sys2Proof
end

