-- ==== Sys2Proof/Config.lean ====
section
/-! DEFINITION. The parameters of the CORE (R4), the default font table (R58) and the one free value, the random byte
(R118). -/

namespace Sys2Proof

/-- `MEM_SIZE`, bytes of memory (R4, R50). -/
abbrev Config.memSize : Nat := 4096

/-- `PROG_BASE`, load and entry address (R4). -/
abbrev Config.progBase : Nat := 0x200

/-- `ROM_MAX`, the largest program: 3584 bytes (R4, R205). -/
abbrev Config.romMax : Nat := 4096 - 0x200

/-- `FONT_BASE`, the address of the font (R4, R57; the source says "conventionally 0x50", D19). -/
abbrev Config.fontBase : Nat := 0x050

/-- `FONT_GLYPH_BYTES`, bytes per glyph (R4, R57). -/
abbrev Config.fontGlyphBytes : Nat := 5

/-- The 80 bytes of a font, 16 glyphs of 5 bytes (R57). -/
abbrev Font := Vector Byte 80

/-- Glyphs 0 to 7 of the default font (R58), five bytes a line. -/
def Config.fontLow : Vector Byte 40 :=
  #v[0xF0, 0x90, 0x90, 0x90, 0xF0,
     0x20, 0x60, 0x20, 0x20, 0x70,
     0xF0, 0x10, 0xF0, 0x80, 0xF0,
     0xF0, 0x10, 0xF0, 0x10, 0xF0,
     0x90, 0x90, 0xF0, 0x10, 0x10,
     0xF0, 0x80, 0xF0, 0x10, 0xF0,
     0xF0, 0x80, 0xF0, 0x90, 0xF0,
     0xF0, 0x10, 0x20, 0x40, 0x40]

/-- Glyphs 8 to F of the default font (R58), five bytes a line. -/
def Config.fontHigh : Vector Byte 40 :=
  #v[0xF0, 0x90, 0xF0, 0x90, 0xF0,
     0xF0, 0x90, 0xF0, 0x10, 0xF0,
     0xF0, 0x90, 0xF0, 0x90, 0x90,
     0xE0, 0x90, 0xE0, 0x90, 0xE0,
     0xF0, 0x80, 0x80, 0x80, 0xF0,
     0xE0, 0x90, 0x90, 0x90, 0xE0,
     0xF0, 0x80, 0xF0, 0x80, 0xF0,
     0xF0, 0x80, 0xF0, 0x80, 0x80]

/-- The default `FONT` of R58. PRESUMED: the table is the family's and not the source's (N1, D20), unsafe for a claim
that rests on a glyph's bytes, log entry 1. `Events.resetWith` takes any other font. -/
def Config.font : Font := Config.fontLow ++ Config.fontHigh

/-- The random bytes the host supplies, one for each draw (R39, R118, R192, D22). A free value: it has no body, so no
proof can know a byte of it. DESIGN CHOICE, safe, log entry 2. -/
opaque Config.rnd : Nat → Byte

end Sys2Proof
end

