-- ==== Sys2Proof/Machine/State.lean ====
section
/-! DEFINITION. The machine state of R20 to R37 as plain data, the five errors of a `STEP` (R170), the reasons to refuse,
and the state after `RESET` (R41, R200). -/

namespace Sys2Proof.Machine

/-- The memory `M` (R37, R50), as the cells that differ from what `RESET` leaves, by rising address (log entry 4). -/
abbrev Memory := List Host.Cell

/-- The framebuffer `FB`, 32 rows of 64 pixels, row 0 at the top, column 0 at the left, `true` for a set pixel (R34). -/
abbrev Framebuffer := Vector (Vector Bool 64) 32

/-- The complete state of the machine (R20 to R37), and `draws`, the model's own counter of the random bytes used. -/
structure State where
  /-- the general registers `V0` to `VF` (R20) -/
  v : Vector Byte 16
  /-- the index register `I`, never masked to 12 bits (R26, R27) -/
  index : Word
  /-- the program counter (R23, R25) -/
  pc : Word
  /-- the stack slots `S[0]` to `S[15]` (R28) -/
  stack : Vector Word 16
  /-- the stack pointer `SP`, the number of slots in use, legal values 0 to 16 (R29) -/
  sp : Byte
  /-- the delay timer `DT` (R30) -/
  dt : Byte
  /-- the sound timer `ST` (R31) -/
  st : Byte
  /-- the keypad latch `K[0]` to `K[15]`, `true` for pressed (R33) -/
  keys : Vector Bool 16
  /-- the framebuffer `FB` (R34) -/
  fb : Framebuffer
  /-- the memory `M` (R37) -/
  mem : Memory
  /-- the opcode latch `OPC` (R35) -/
  opc : Word
  /-- the awaiting-key flag `WAIT` (R36) -/
  wait : Bool
  /-- The model's own field: how many bytes of `Config.rnd` have been drawn (R118, D22; log entries 2 and 3). -/
  draws : Nat
  deriving DecidableEq, Repr

/-- The errors of a `STEP` (R170 rows 1 to 5), each with what its error record carries (R177). The spec calls a `STEP`
that returns an error the machine's fault (R15). In each case the machine commits nothing (R9, R180). Ending a run at a
fault is safe: the hardware's host may go on, from the same state (R15, R181; log entry 5). -/
inductive Fault where
  /-- Raised by `step` at dispatch when the word at `pc` matches none of the 34 patterns (R171). Safe. -/
  | unknownOpcode (pc word : Word)
  /-- Raised by 2nnn when the stack is full (R173). Safe. -/
  | stackOverflow (pc word : Word)
  /-- Raised by 00EE when the stack is empty (R174). Safe. -/
  | stackUnderflow (pc word : Word)
  /-- Raised by `step` at the fetch (then `word` is absent), and by Dxyn, Fx33, Fx55, Fx65, when the highest address of
  the access is 4096 or more (R172). `addr` can need 17 bits (R177). Safe. -/
  | memoryOverrun (pc : Word) (word : Option Word) (addr : Nat)
  /-- Raised by Ex9E and ExA1 when the key number in `Vx` is above 15 (R175). Safe. -/
  | invalidKey (pc word : Word) (key : Byte)
  deriving DecidableEq, Repr

/-- Why a step is refused. -/
inductive Refusal where
  /-- An arm of `exec` that has no meaning yet; no arm uses it. Safe. -/
  | notModelled (mnemonic : String)
  /-- Raised by 00EE and 2nnn when `SP` is above 16: such a state has no defined behaviour and only a host `POKE` that
  the model itself refuses could make it (R15, R29, C14). Safe, log entry 6. -/
  | stackPointerRange (sp : Byte)
  deriving DecidableEq, Repr

/-- The machine right after `RESET` (R41, R200): memory holds zeros and the font, which is what an unlisted address
reads as. `draws` is the model's own (log entry 3). -/
def State.reset : State where
  v := Vector.replicate 16 0x00
  index := 0x0000
  pc := 0x0200
  stack := Vector.replicate 16 0x0000
  sp := 0
  dt := 0x00
  st := 0x00
  keys := Vector.replicate 16 false
  fb := Vector.replicate 32 (Vector.replicate 64 false)
  mem := []
  opc := 0x0000
  wait := false
  draws := 0

end Sys2Proof.Machine
end

