-- ==== Sys2Proof/Machine/Ops.lean ====
section
/-! DEFINITION. The named operations over memory, registers, the stack, the program counter and the framebuffer; the
commit that ends an instruction (R95, R97); raising an error (R9, R180); and the fetch (R91).

The machine has no exception that enters a handler and nothing to return from (R180, R181): an error is reported to the
host and commits nothing, so `raise` is the whole of it. -/

namespace Sys2Proof.Machine

/-- What one step answers. -/
abbrev Result := Host.Outcome State Fault Refusal

/-! ## Memory (R8, R50 to R57) -/

/-- The byte that `RESET` leaves at an address: the font at `FONT_BASE`, zero elsewhere (R37, R56, R200). This is what
an address that `Memory` does not list reads as (log entries 1 and 4). -/
def Memory.initial (a : Nat) : Byte :=
  if h : Config.fontBase ≤ a ∧ a - Config.fontBase < 80 then Config.font[a - Config.fontBase]'h.2 else 0x00

/-- `MemRead(a, 1)` (R8). -/
def Memory.read : Memory → Nat → Byte
  | [], a => Memory.initial a
  | (b, u) :: m, a => if a = b then u else Memory.read m a

/-- Memory without a cell for an address, which then reads as an unlisted one. -/
def Memory.erase : Memory → Nat → Memory
  | [], _ => []
  | (b, t) :: m, a => if b = a then Memory.erase m a else (b, t) :: Memory.erase m a

/-- Memory with a cell for an address, put where the addresses rise. -/
def Memory.insert : Memory → Nat → Byte → Memory
  | [], a, u => [(a, u)]
  | (b, t) :: m, a, u =>
    if a < b then (a, u) :: (b, t) :: m
    else if a = b then (a, u) :: m
    else (b, t) :: Memory.insert m a u

/-- `MemWrite(a, 1, u)` (R8), keeping the canonical form: a byte equal to what an unlisted address reads as is not
listed. -/
def Memory.write (m : Memory) (a : Nat) (u : Byte) : Memory :=
  if u = Memory.initial a then m.erase a else m.insert a u

/-- The bytes at `a`, `a+1`, ..., as many as asked for. -/
def Memory.readList (m : Memory) (a : Nat) : Nat → List Byte
  | 0 => []
  | n + 1 => m.read a :: Memory.readList m (a + 1) n

/-- The bytes of a list stored at `a`, `a+1`, .... -/
def Memory.writeList (m : Memory) (a : Nat) : List Byte → Memory
  | [] => m
  | u :: us => Memory.writeList (m.write a u) (a + 1) us

/-- The canonical form from an address on: addresses rise strictly, lie below 4096 (R50), and no cell holds what an
unlisted address reads as. -/
def Memory.wfFrom (lo : Nat) : Memory → Bool
  | [] => true
  | (a, u) :: m => lo ≤ a && a < Config.memSize && u != Memory.initial a && Memory.wfFrom (a + 1) m

/-- The canonical form of memory. -/
def Memory.wf (m : Memory) : Bool := Memory.wfFrom 0 m

/-! ## Registers (R20) -/

/-- `V[x]` (R20). -/
def State.reg (s : State) (x : Reg) : Byte := s.v[x]

/-- `V[x] <- u` (R20). -/
def State.setReg (s : State) (x : Reg) (u : Byte) : State := { s with v := s.v.set x u }

/-! ## The end of an instruction (R92, R95, R97) -/

/-- `npc = pc0 + 2` (R92). After a fetch that succeeded it is at most 4096 and does not wrap. -/
def State.npc (s : State) : Word := s.pc + 2

/-- The commit of an instruction with result `OK`: `pc <- target`, `WAIT <- 0` (R95, R97). The latch of `OPC` is in
`State.latch`. -/
def State.commit (s : State) (target : Word) : State := { s with pc := target, wait := false }

/-- The commit of Fx0A with no key pressed, result `WAITING`: `pc` stays and `WAIT <- 1` (R90, R152). -/
def State.awaitKey (s : State) : State := { s with wait := true }

/-- A conditional skip: `pc <- npc + 2` when the condition holds, else `pc <- npc` (R125). -/
def State.skipIf (s : State) (c : Bool) : State := s.commit (if c then s.npc + 2 else s.npc)

/-- Ending a step with an error: nothing is committed and the host gets the record (R9, R180). -/
def raise (f : Fault) : Result := .fault f

/-! ## The stack (R28, R29) -/

/-- `S[k]`; only slots 0 to 15 exist (R28), and no meaning asks for another. -/
def State.slot (s : State) (k : Nat) : Word := (s.stack[k]?).getD 0

/-- `S[SP] <- u`, `SP <- SP + 1` (R127). -/
def State.push (s : State) (u : Word) : State :=
  { s with stack := s.stack.setIfInBounds s.sp.toNat u, sp := s.sp + 1 }

/-- The most recent slot in use, `S[SP - 1]` (R29, R126). -/
def State.top (s : State) : Word := s.slot (s.sp.toNat - 1)

/-- `SP <- SP - 1`; the slot keeps its value (R28, R126, D24). -/
def State.pop (s : State) : State := { s with sp := s.sp - 1 }

/-! ## The other registers (R26, R30, R31, R35) -/

/-- `I <- u` (R26). -/
def State.setIndex (s : State) (u : Word) : State := { s with index := u }

/-- `DT <- u` (R30). -/
def State.setDt (s : State) (u : Byte) : State := { s with dt := u }

/-- `ST <- u` (R31). -/
def State.setSt (s : State) (u : Byte) : State := { s with st := u }

/-- The output `sound_on` (R32). -/
def State.soundOn (s : State) : Bool := s.st != 0

/-- `M <- m`. -/
def State.setMem (s : State) (m : Memory) : State := { s with mem := m }

/-- `FB <- f`. -/
def State.setFb (s : State) (f : Framebuffer) : State := { s with fb := f }

/-- The next free random byte, the input `rnd` of this `STEP` (R118, R192). -/
def State.rnd (s : State) : Byte := Config.rnd s.draws

/-- One random byte has been drawn, so that the next draw is another one (I1). -/
def State.drawn (s : State) : State := { s with draws := s.draws + 1 }

/-- `OPC <- w` (R35, R97). The latch is set before the instruction runs, which the instruction sees only in the word of
an error record (R177); on an error the whole state is discarded, the latch with it (R95, D8; log entry 7). -/
def State.latch (s : State) (w : Word) : State := { s with opc := w }

/-! ## The framebuffer (R34) -/

/-- `FB[py][px]` (R34). -/
def Framebuffer.pixel (f : Framebuffer) (py : Fin 32) (px : Fin 64) : Bool := f[py][px]

/-- `FB[py][px] <- b` (R34). -/
def Framebuffer.setPixel (f : Framebuffer) (py : Fin 32) (px : Fin 64) (b : Bool) : Framebuffer :=
  f.set py (f[py].set px b)

/-- The clear framebuffer (R160, R200). -/
def Framebuffer.clear : Framebuffer := Vector.replicate 32 (Vector.replicate 64 false)

/-! ## Fetch (R91) -/

/-- A fetch at `pc` reads inside memory: `pc + 1 < 4096` (R91). -/
def State.canFetch (s : State) : Bool := s.pc.toNat + 1 < Config.memSize

/-- The word at `pc`, two bytes, high byte first (R52, R91). -/
def State.fetchWord (s : State) : Word := wordOfBytes (s.mem.read s.pc.toNat) (s.mem.read (s.pc.toNat + 1))

/-- The fetch of a `STEP` (R91). -/
def State.fetch (s : State) : Except Fault Word :=
  if s.canFetch then .ok s.fetchWord else .error (.memoryOverrun s.pc none (s.pc.toNat + 1))

/-- The state with the bytes of an instruction at `pc`. Where no fetch could succeed at `pc`, the program counter is set
to the entry address first (log entry 8). -/
def State.place (s : State) (bytes : List Byte) : State :=
  if s.canFetch then s.setMem (s.mem.writeList s.pc.toNat bytes)
  else { s with pc := BitVec.ofNat 16 Config.progBase, mem := s.mem.writeList Config.progBase bytes }

/-! ## Error records (R170, R177) -/

/-- The error record of R177. -/
structure ErrorRecord where
  code : Nat
  pc : Word
  word : Option Word
  addr : Option Nat
  key : Option Byte
  deriving DecidableEq, Repr

/-- The record of a fault, with the code of R170. -/
def Fault.record : Fault → ErrorRecord
  | .unknownOpcode pc w => ⟨1, pc, some w, none, none⟩
  | .stackOverflow pc w => ⟨2, pc, some w, none, none⟩
  | .stackUnderflow pc w => ⟨3, pc, some w, none, none⟩
  | .memoryOverrun pc w a => ⟨4, pc, w, some a, none⟩
  | .invalidKey pc w k => ⟨5, pc, some w, none, some k⟩

end Sys2Proof.Machine
end

