-- ==== Sys2Proof/Machine/Flags.lean ====
section
/-! DEFINITION. The flag computations (R22, R105) and the order in which a result and its flag are written (R106). -/

namespace Sys2Proof.Machine

/-- A flag as the byte it leaves in `VF`: 0x00 or 0x01 (R22). -/
def flagByte (b : Bool) : Byte := if b then 0x01 else 0x00

/-- Carry out of an 8-bit add: the true sum exceeds 255 (R105). -/
def carryOut (a b : Byte) : Bool := 255 < a.toNat + b.toNat

/-- NOT borrow: minuend at or above subtrahend (R105). -/
def noBorrow (minuend subtrahend : Byte) : Bool := subtrahend.toNat ≤ minuend.toNat

/-- The bit a right shift moves out, bit 0 (R115). -/
def lowBit (a : Byte) : Bool := a.getLsbD 0

/-- The bit a left shift moves out, bit 7 (R117). -/
def highBit (a : Byte) : Bool := a.getLsbD 7

/-- `V[x] <- result`, then `V[15] <- flag`: the flag is written last, so it remains when `x = F` (R106, D11). -/
def State.setWithFlag (s : State) (x : Reg) (result : Byte) (flag : Bool) : State :=
  (s.setReg x result).setReg Reg.vf (flagByte flag)

end Sys2Proof.Machine
end

