-- ==== Sys2Proof/Machine/Operands.lean ====
section
/-! DEFINITION. The operand forms: immediates (R77), the effective address and its bound check (R59, R60), key numbers
(R150), register lists (R144, R145), the decimal digits (R143), and the choice of a pressed key (R152). -/

namespace Sys2Proof.Machine

/-- An address operand as a 16-bit value, zero-extended (R77). -/
def addrWord (nnn : Addr) : Word := nnn.zeroExtend 16

/-- A byte as a 16-bit value, zero-extended (R6). -/
def byteWord (u : Byte) : Word := u.zeroExtend 16

/-- `EA(k) = I + k`, an unbounded integer, not reduced (R59). -/
def State.ea (s : State) (k : Nat) : Nat := s.index.toNat + k

/-- An access of `count` bytes through `I` stays inside memory (R60). An empty access cannot fail. -/
def State.inRange (s : State) (count : Nat) : Bool := count == 0 || s.ea (count - 1) < Config.memSize

/-- The bound check in front of an access of `count` bytes through `I`: made on the highest address, before anything is
read or written (R60, D14). -/
def State.access (s : State) (count : Nat) (t : State) : Result :=
  if s.inRange count then .next t else raise (.memoryOverrun s.pc (some s.opc) (s.ea (count - 1)))

/-- A key number from a register's whole byte, with its range check (R150, R151). -/
def State.withKey (s : State) (u : Byte) (next : Fin 16 → State) : Result :=
  if h : u.toNat < 16 then .next (next ⟨u.toNat, h⟩) else raise (.invalidKey s.pc s.opc u)

/-- `K[k]` (R33). -/
def State.key (s : State) (k : Fin 16) : Bool := s.keys[k]

/-- The key numbers in rising order (R33). -/
def keyNumbers : List (Fin 16) := [0, 1, 2, 3, 4, 5, 6, 7, 8, 9, 10, 11, 12, 13, 14, 15]

/-- The lowest-numbered pressed key, if any (R152, D15). -/
def State.lowestKey (s : State) : Option (Fin 16) := keyNumbers.find? fun k => s.key k

/-- The values of `V0` to `Vx` (R144). -/
def State.regsUpTo (s : State) (x : Reg) : List Byte := s.v.toList.take (x.val + 1)

/-- `V0` to `Vx` loaded from memory at `I`, the registers above `Vx` kept (R145). -/
def State.loadRegs (s : State) (x : Reg) : State :=
  { s with v := Vector.ofFn fun k => if k.val ≤ x.val then s.mem.read (s.ea k.val) else s.v[k] }

/-- The decimal digits of a byte: hundreds, tens, ones (R143). -/
def decimalDigits (u : Byte) : List Byte :=
  [BitVec.ofNat 8 (u.toNat / 100), BitVec.ofNat 8 (u.toNat / 10 % 10), BitVec.ofNat 8 (u.toNat % 10)]

/-- The address of the glyph of a value: `FONT_BASE + 5 * u`, on the whole byte (R142, D18). -/
def glyphAddr (u : Byte) : Word := BitVec.ofNat 16 (Config.fontBase + u.toNat * Config.fontGlyphBytes)

end Sys2Proof.Machine
end

