-- ==== Sys2Proof/Machine/Alu.lean ====
section
/-! DEFINITION. The ALU family (41_alu.md): loads, immediate add, logic, add and subtract with flag, shifts, random.
Each ends with `pc <- npc`; none can raise an error. -/

namespace Sys2Proof.Machine

/-- 6xkk `LD Vx,kk` (R107). -/
def execLdVxKk (x : Reg) (kk : Byte) (s : State) : Result :=
  .next ((s.setReg x kk).commit s.npc)

/-- 7xkk `ADD Vx,kk`, no flag (R108). -/
def execAddVxKk (x : Reg) (kk : Byte) (s : State) : Result :=
  .next ((s.setReg x (s.reg x + kk)).commit s.npc)

/-- 8xy0 `LD Vx,Vy` (R109). -/
def execLdVxVy (x y : Reg) (s : State) : Result :=
  .next ((s.setReg x (s.reg y)).commit s.npc)

/-- 8xy1 `OR Vx,Vy`, no flag (R110). -/
def execOrVxVy (x y : Reg) (s : State) : Result :=
  .next ((s.setReg x (s.reg x ||| s.reg y)).commit s.npc)

/-- 8xy2 `AND Vx,Vy`, no flag (R111). -/
def execAndVxVy (x y : Reg) (s : State) : Result :=
  .next ((s.setReg x (s.reg x &&& s.reg y)).commit s.npc)

/-- 8xy3 `XOR Vx,Vy`, no flag (R112). -/
def execXorVxVy (x y : Reg) (s : State) : Result :=
  .next ((s.setReg x (s.reg x ^^^ s.reg y)).commit s.npc)

/-- 8xy4 `ADD Vx,Vy`, `VF` the carry (R113). -/
def execAddVxVy (x y : Reg) (s : State) : Result :=
  .next ((s.setWithFlag x (s.reg x + s.reg y) (carryOut (s.reg x) (s.reg y))).commit s.npc)

/-- 8xy5 `SUB Vx,Vy`, `VF` NOT borrow (R114). -/
def execSubVxVy (x y : Reg) (s : State) : Result :=
  .next ((s.setWithFlag x (s.reg x - s.reg y) (noBorrow (s.reg x) (s.reg y))).commit s.npc)

/-- 8xy6 `SHR Vx`, `VF` the bit shifted out; `y` is neither read nor written (R115). -/
def execShrVx (x _y : Reg) (s : State) : Result :=
  .next ((s.setWithFlag x (s.reg x >>> 1) (lowBit (s.reg x))).commit s.npc)

/-- 8xy7 `SUBN Vx,Vy`, `VF` NOT borrow of `Vy - Vx` (R116). -/
def execSubnVxVy (x y : Reg) (s : State) : Result :=
  .next ((s.setWithFlag x (s.reg y - s.reg x) (noBorrow (s.reg y) (s.reg x))).commit s.npc)

/-- 8xyE `SHL Vx`, `VF` the bit shifted out; `y` is neither read nor written (R117). -/
def execShlVx (x _y : Reg) (s : State) : Result :=
  .next ((s.setWithFlag x (s.reg x <<< 1) (highBit (s.reg x))).commit s.npc)

/-- Cxkk `RND Vx,kk`: the free byte of this `STEP` ANDed with `kk` (R118; log entry 2). -/
def execRndVxKk (x : Reg) (kk : Byte) (s : State) : Result :=
  .next (((s.setReg x (s.rnd &&& kk)).drawn).commit s.npc)

end Sys2Proof.Machine
end

