-- ==== Sys2Proof/Machine/Control.lean ====
section
/-! DEFINITION. Control flow (42_control_flow.md): return, call, jumps and the register skips. A target is stored as it
is, unchecked and unmasked; a bad one makes the next fetch fail (R125). -/

namespace Sys2Proof.Machine

/-- The stack pointer's legal range, in front of an instruction that uses it (R29, C14; log entry 6). -/
def State.withLegalSp (s : State) (r : Result) : Result :=
  if s.sp.toNat ≤ 16 then r else .refused (.stackPointerRange s.sp)

/-- 00EE `RET` (R126). -/
def execRet (s : State) : Result :=
  s.withLegalSp (if s.sp = 0 then raise (.stackUnderflow s.pc s.opc) else .next (s.pop.commit s.top))

/-- 2nnn `CALL nnn` (R127). -/
def execCallNnn (nnn : Addr) (s : State) : Result :=
  s.withLegalSp (if 16 ≤ s.sp.toNat then raise (.stackOverflow s.pc s.opc)
    else .next ((s.push s.npc).commit (addrWord nnn)))

/-- 1nnn `JP nnn` (R128). -/
def execJpNnn (nnn : Addr) (s : State) : Result := .next (s.commit (addrWord nnn))

/-- Bnnn `JP V0,nnn`: the sum is stored whole (R129). -/
def execJpV0Nnn (nnn : Addr) (s : State) : Result := .next (s.commit (addrWord nnn + byteWord (s.reg 0)))

/-- 3xkk `SE Vx,kk` (R130). -/
def execSeVxKk (x : Reg) (kk : Byte) (s : State) : Result := .next (s.skipIf (s.reg x == kk))

/-- 4xkk `SNE Vx,kk` (R131). -/
def execSneVxKk (x : Reg) (kk : Byte) (s : State) : Result := .next (s.skipIf (s.reg x != kk))

/-- 5xy0 `SE Vx,Vy` (R132). -/
def execSeVxVy (x y : Reg) (s : State) : Result := .next (s.skipIf (s.reg x == s.reg y))

/-- 9xy0 `SNE Vx,Vy` (R133). -/
def execSneVxVy (x y : Reg) (s : State) : Result := .next (s.skipIf (s.reg x != s.reg y))

end Sys2Proof.Machine
end

