-- ==== Sys2Proof/Machine/Display.lean ====
section
/-! DEFINITION. Framebuffer clear and sprite draw with collision detection (45_display.md). The draw visits the pixels
in the order of R161's pseudocode: rows top to bottom, columns left to right. -/

namespace Sys2Proof.Machine

/-- A framebuffer being drawn on, with the collision found so far (the local `coll` of R161). -/
structure Canvas where
  fb : Framebuffer
  coll : Bool
  deriving DecidableEq, Repr

/-- One pixel under a set sprite bit: note a collision if it is set, then toggle it (R161). -/
def Canvas.toggle (c : Canvas) (py : Fin 32) (px : Fin 64) : Canvas :=
  { fb := c.fb.setPixel py px (!c.fb.pixel py px), coll := c.coll || c.fb.pixel py px }

/-- Column `col` of a sprite row: its bit is bit `7 - col` of the row's byte, its pixel `((x0 + col) mod 64, (y0 + r) mod
32)` (R161, R163, D34). -/
def Canvas.drawColumn (row : Byte) (x0 y : Nat) (c : Canvas) (col : Nat) : Canvas :=
  if row.getLsbD (7 - col) then c.toggle (Fin.ofNat 32 y) (Fin.ofNat 64 (x0 + col)) else c

/-- The 8 columns of one sprite row, left to right (R161). -/
def Canvas.drawRow (c : Canvas) (row : Byte) (x0 y : Nat) : Canvas :=
  [0, 1, 2, 3, 4, 5, 6, 7].foldl (Canvas.drawColumn row x0 y) c

/-- The rows of a sprite, top to bottom, the first at screen row `y mod 32` (R161). -/
def Canvas.drawRows (c : Canvas) (x0 y : Nat) : List Byte → Canvas
  | [] => c
  | row :: rows => Canvas.drawRows (c.drawRow row x0 y) x0 (y + 1) rows

/-- A sprite drawn on a framebuffer, with the collision bit (R161). -/
def drawSprite (f : Framebuffer) (x0 y0 : Nat) (rows : List Byte) : Canvas :=
  Canvas.drawRows { fb := f, coll := false } x0 y0 rows

/-- 00E0 `CLS` (R160). -/
def execCls (s : State) : Result := .next ((s.setFb Framebuffer.clear).commit s.npc)

/-- The drawing half of Dxyn: the position and the sprite's bytes are those before the instruction (R161, D10). -/
def State.draw (s : State) (x y : Reg) (n : Nibble) : Canvas :=
  drawSprite s.fb (s.reg x).toNat (s.reg y).toNat (s.mem.readList (s.ea 0) n.toNat)

/-- Dxyn `DRW Vx,Vy,n`: the whole sprite is in range or nothing is drawn; `VF` is the collision bit (R161). -/
def execDrwVxVyN (x y : Reg) (n : Nibble) (s : State) : Result :=
  s.access n.toNat
    (((s.setFb (s.draw x y n).fb).setReg Reg.vf (flagByte (s.draw x y n).coll)).commit s.npc)

end Sys2Proof.Machine
end

