-- ==== Sys2Proof/Machine/Input.lean ====
section
/-! DEFINITION. Keypad polling and timer access (44_input_timers.md). A `STEP` only reads the keypad, and never
decrements a timer. -/

namespace Sys2Proof.Machine

/-- Ex9E `SKP Vx` (R150). -/
def execSkpVx (x : Reg) (s : State) : Result := s.withKey (s.reg x) fun k => s.skipIf (s.key k)

/-- ExA1 `SKNP Vx` (R151). -/
def execSknpVx (x : Reg) (s : State) : Result := s.withKey (s.reg x) fun k => s.skipIf (!s.key k)

/-- Fx0A `LD Vx,K`: with no key pressed it waits, `pc` not advanced; else `Vx` is the lowest pressed key (R152). -/
def execLdVxK (x : Reg) (s : State) : Result :=
  match s.lowestKey with
  | none => .next s.awaitKey
  | some k => .next ((s.setReg x (BitVec.ofNat 8 k.val)).commit s.npc)

/-- Fx07 `LD Vx,DT` (R153). -/
def execLdVxDt (x : Reg) (s : State) : Result := .next ((s.setReg x s.dt).commit s.npc)

/-- Fx15 `LD DT,Vx` (R154). -/
def execLdDtVx (x : Reg) (s : State) : Result := .next ((s.setDt (s.reg x)).commit s.npc)

/-- Fx18 `LD ST,Vx` (R155). -/
def execLdStVx (x : Reg) (s : State) : Result := .next ((s.setSt (s.reg x)).commit s.npc)

end Sys2Proof.Machine
end

