-- ==== Sys2Proof/Machine/Transfer.lean ====
section
/-! DEFINITION. The index register and memory transfer (43_memory_transfer.md). `I` is the same after a load or a store
as before; a bound check that fails changes nothing (R60). -/

namespace Sys2Proof.Machine

/-- Annn `LD I,nnn` (R140). -/
def execLdINnn (nnn : Addr) (s : State) : Result := .next ((s.setIndex (addrWord nnn)).commit s.npc)

/-- Fx1E `ADD I,Vx`, modulo 65536, no flag (R141). -/
def execAddIVx (x : Reg) (s : State) : Result :=
  .next ((s.setIndex (s.index + byteWord (s.reg x))).commit s.npc)

/-- Fx29 `LD F,Vx`, on the whole byte (R142). -/
def execLdFVx (x : Reg) (s : State) : Result := .next ((s.setIndex (glyphAddr (s.reg x))).commit s.npc)

/-- Fx33 `LD B,Vx`: three decimal digits at `I`, `I+1`, `I+2` (R143). -/
def execLdBVx (x : Reg) (s : State) : Result :=
  s.access 3 ((s.setMem (s.mem.writeList (s.ea 0) (decimalDigits (s.reg x)))).commit s.npc)

/-- Fx55 `LD [I],Vx`: `V0` to `Vx` at `I` to `I+x` (R144). -/
def execLdMemIVx (x : Reg) (s : State) : Result :=
  s.access (x.val + 1) ((s.setMem (s.mem.writeList (s.ea 0) (s.regsUpTo x))).commit s.npc)

/-- Fx65 `LD Vx,[I]`: `V0` to `Vx` from `I` to `I+x` (R145). -/
def execLdVxMemI (x : Reg) (s : State) : Result :=
  s.access (x.val + 1) ((s.loadRegs x).commit s.npc)

end Sys2Proof.Machine
end

