-- ==== Sys2Proof/Machine/Step.lean ====
section
/-! DEFINITION. The `STEP` event (R96): fetch, decode, execute, commit; and the host's way to place one instruction. -/

namespace Sys2Proof.Machine

/-- One fetch-decode-execute cycle (R90 to R97). A `STEP` that returns `OK` or `WAITING` answers the next state, told
apart by `WAIT` (R97); one that returns an error answers the fault, and the machine's state is then the old one (R180). -/
def step (s : State) : Host.Outcome State Fault Refusal :=
  match s.fetch with
  | .error f => raise f
  | .ok w =>
    match decodeWord w with
    | .error _ => raise (.unknownOpcode s.pc w)
    | .ok i => exec i (s.latch w)

/-- The state with the instruction of a table row's bits stored at `pc`, so that the next step runs it (log entry 8). -/
def State.withFetchWord (s : State) (nbits w : Nat) : State := s.place (tableBytes nbits w)

end Sys2Proof.Machine
end

