-- ==== Sys2Proof/Machine/Events.lean ====
section
/-! DEFINITION. The host's events (R12): `RESET`, `LOAD`, `STEP`, `TICK`, `KEYS`, `PEEK`, `POKE`. Each is atomic; the host
chooses their order, which is the input of `Events.run` (D32, I16). An event that fails leaves the state as it was (R9). -/

namespace Sys2Proof.Machine

/-- The errors of host operations, rows 6 to 8 of R170 (R176). What one carries beside its code is open: R9 and R177 give
a record, but only for a `STEP`. DESIGN CHOICE, safe: the length, register number or address that was passed and no
record, log entry 17. -/
inductive HostError where
  /-- `LOAD` of more than 3584 bytes (R205) -/
  | programTooLarge (len : Nat)
  /-- `PEEK` or `POKE` of a register number above 15 (R190) -/
  | invalidRegister (n : Nat)
  /-- `PEEK` or `POKE` of an address above 4095 (R190) -/
  | invalidAddress (a : Nat)
  deriving DecidableEq, Repr

/-- The numeric code of a host error (R170). -/
def HostError.code : HostError → Nat
  | .programTooLarge _ => 6
  | .invalidRegister _ => 7
  | .invalidAddress _ => 8

/-- A piece of state the host may read: every one (R190, D29). Registers and memory are named by plain numbers, which
can be out of range; the keypad and the framebuffer by their own indexes. -/
inductive Cell where
  | reg (n : Nat)
  | mem (a : Nat)
  | key (k : Fin 16)
  | pixel (py : Fin 32) (px : Fin 64)
  | pc
  | index
  | slot (k : Fin 16)
  | sp
  | dt
  | st
  | opc
  | wait
  deriving DecidableEq, Repr

/-- What a `PEEK` returns: a byte, a 16-bit value, or one bit for a key, a pixel or `WAIT` (D13, D23; log entry 9). -/
inductive CellValue where
  | byte (u : Byte)
  | word (u : Word)
  | bit (b : Bool)
  deriving DecidableEq, Repr

/-- A write by the host: every piece of state but `OPC` and `WAIT` (R190, D29). -/
inductive Poke where
  | reg (n : Nat) (u : Byte)
  | mem (a : Nat) (u : Byte)
  | key (k : Fin 16) (b : Bool)
  | pixel (py : Fin 32) (px : Fin 64) (b : Bool)
  | pc (u : Word)
  | index (u : Word)
  | slot (k : Fin 16) (u : Word)
  | sp (u : Byte)
  | dt (u : Byte)
  | st (u : Byte)
  deriving DecidableEq, Repr

/-- An event (R12). `STEP`'s random byte is the free value of log entry 2. -/
inductive Event where
  | reset
  | load (bytes : List Byte)
  | step
  | tick
  | keys (k : BitVec 16)
  | peek (c : Cell)
  | poke (p : Poke)
  deriving DecidableEq, Repr

/-- What an event returns to the host (R12, R90, R170). -/
inductive EventResult where
  | ok
  | waiting
  | value (u : CellValue)
  | err (f : Fault)
  | hostErr (e : HostError)
  | refused (r : Refusal)
  deriving DecidableEq, Repr

/-- The state after `RESET`, for any font (R58, R200). The random source is not touched (R200), so neither is the
model's counter of draws. -/
def Events.resetWith (font : Font) (s : State) : State :=
  { State.reset with mem := Memory.writeList [] Config.fontBase font.toList, draws := s.draws }

/-- The state after a `LOAD` that fits (R204). -/
def Events.loaded (bytes : List Byte) (s : State) : State :=
  s.setMem (s.mem.writeList Config.progBase bytes)

/-- A timer's count after one tick: one less, never below zero (R183). -/
def Events.countDown (u : Byte) : Byte := if u = 0 then 0 else u - 1

/-- `TICK` (R183). -/
def Events.tick (s : State) : State := (s.setDt (Events.countDown s.dt)).setSt (Events.countDown s.st)

/-- `KEYS(k)` (R184). -/
def Events.keys (k : BitVec 16) (s : State) : State := { s with keys := Vector.ofFn fun i => k.getLsbD i.val }

/-- `PEEK` (R190). -/
def Events.peek (c : Cell) (s : State) : EventResult :=
  match c with
  | .reg n => if h : n < 16 then .value (.byte (s.reg ⟨n, h⟩)) else .hostErr (.invalidRegister n)
  | .mem a => if a < Config.memSize then .value (.byte (s.mem.read a)) else .hostErr (.invalidAddress a)
  | .key k => .value (.bit (s.key k))
  | .pixel py px => .value (.bit (s.fb.pixel py px))
  | .pc => .value (.word s.pc)
  | .index => .value (.word s.index)
  | .slot k => .value (.word (s.slot k.val))
  | .sp => .value (.byte s.sp)
  | .dt => .value (.byte s.dt)
  | .st => .value (.byte s.st)
  | .opc => .value (.word s.opc)
  | .wait => .value (.bit s.wait)

/-- `POKE` (R190). A `POKE` that would put `SP` above 16 is refused (D29, I8; log entry 6). -/
def Events.poke (p : Poke) (s : State) : EventResult × State :=
  match p with
  | .reg n u => if h : n < 16 then (.ok, s.setReg ⟨n, h⟩ u) else (.hostErr (.invalidRegister n), s)
  | .mem a u => if a < Config.memSize then (.ok, s.setMem (s.mem.write a u)) else (.hostErr (.invalidAddress a), s)
  | .key k b => (.ok, { s with keys := s.keys.set k b })
  | .pixel py px b => (.ok, s.setFb (s.fb.setPixel py px b))
  | .pc u => (.ok, { s with pc := u })
  | .index u => (.ok, s.setIndex u)
  | .slot k u => (.ok, { s with stack := s.stack.set k u })
  | .sp u => if u.toNat ≤ 16 then (.ok, { s with sp := u }) else (.refused (.stackPointerRange u), s)
  | .dt u => (.ok, s.setDt u)
  | .st u => (.ok, s.setSt u)

/-- The `STEP` event: the result is `WAITING` exactly when the next state has `WAIT` set (R90, R97); an error leaves the
state as it was (R180). -/
def Events.step (s : State) : EventResult × State :=
  match Machine.step s with
  | .next t => (if t.wait then .waiting else .ok, t)
  | .fault f => (.err f, s)
  | .refused r => (.refused r, s)

/-- One event, on a machine with the given font (R12). -/
def Events.apply (font : Font) (e : Event) (s : State) : EventResult × State :=
  match e with
  | .reset => (.ok, Events.resetWith font s)
  | .load bytes =>
    if bytes.length ≤ Config.romMax then (.ok, Events.loaded bytes s)
    else (.hostErr (.programTooLarge bytes.length), s)
  | .step => Events.step s
  | .tick => (.ok, Events.tick s)
  | .keys k => (.ok, Events.keys k s)
  | .peek c => (Events.peek c s, s)
  | .poke p => Events.poke p s

/-- The state after a sequence of events (R12, R206). -/
def Events.run (font : Font) : List Event → State → State
  | [], s => s
  | e :: es, s => Events.run font es (Events.apply font e s).2

/-- A parked state: `pc` is at most 4094 and holds a jump to itself (R208, D30). The hardware neither detects nor signals
it. -/
def State.parked (s : State) : Bool := s.canFetch && decodeWord s.fetchWord == .ok (.jpNnn (s.pc.extractLsb' 0 12))

end Sys2Proof.Machine
end

