-- ==== Sys2Proof/Safety.lean ====
section
/-! DEFINITION. The terms claims are stated in: the parts of the state and which of them two states share (for frames),
the invariant of R40, the conditions under which a step fails (R178), and the pixels a sprite covers (R161). -/

namespace Sys2Proof.Machine

/-- The parts of the state, for frames (R20 to R37; `draws` is the model's own). -/
inductive Part where
  | regs | index | pc | stack | sp | dt | st | keys | fb | mem | opc | wait | draws
  deriving DecidableEq, Repr

/-- Two states hold the same in one part: every register, every stack slot, every key, every pixel, every byte of memory
for the parts with many cells. -/
def Part.same (s t : State) : Part → Prop
  | .regs => ∀ r, t.reg r = s.reg r
  | .index => t.index = s.index
  | .pc => t.pc = s.pc
  | .stack => ∀ k, t.slot k = s.slot k
  | .sp => t.sp = s.sp
  | .dt => t.dt = s.dt
  | .st => t.st = s.st
  | .keys => ∀ k, t.key k = s.key k
  | .fb => ∀ py px, t.fb.pixel py px = s.fb.pixel py px
  | .mem => ∀ a, t.mem.read a = s.mem.read a
  | .opc => t.opc = s.opc
  | .wait => t.wait = s.wait
  | .draws => t.draws = s.draws

/-- From `s` to `t` nothing changes but the parts listed: the frame of an instruction. -/
def State.changesOnly (s t : State) (parts : List Part) : Prop := ∀ p, p ∉ parts → p.same s t

/-- Every register but the ones listed is unchanged. -/
def State.keepsRegs (s t : State) (written : List Reg) : Prop := ∀ r, r ∉ written → t.reg r = s.reg r

/-- Every byte of memory outside `count` bytes from `a` on is unchanged. -/
def State.keepsBytes (s t : State) (a count : Nat) : Prop :=
  ∀ b, b < a ∨ a + count ≤ b → t.mem.read b = s.mem.read b

/-- An instruction ends with result `OK` and `pc` at a target (R90, R97). -/
def State.okAt (t : State) (target : Word) : Prop := t.pc = target ∧ t.wait = false

/-- An instruction executes to a next state that has a property. -/
def Completes (i : Instr) (s : State) (post : State → Prop) : Prop := ∃ t, exec i s = .next t ∧ post t

/-- The word with a given number decodes to an instruction (R78, R79). -/
def wordIs (n : Nat) (i : Instr) : Prop := decodeWord (BitVec.ofNat 16 n) = .ok i

/-- Calls to a list of addresses, one after the other, each from where the one before left the machine (R134). -/
def callAll : List Addr → State → Result
  | [], s => .next s
  | a :: rest, s =>
    match exec (.callNnn a) s with
    | .next t => callAll rest t
    | r => r

/-- The invariant of R40 over states, with the canonical form of memory: `SP` at most 16, every slot in use between 2 and
0x1000, `pc` at most 0x10FE. -/
abbrev State.Inv (s : State) : Prop :=
  s.mem.wf = true ∧ s.sp.toNat ≤ 16 ∧
    (∀ k, k < s.sp.toNat → 2 ≤ (s.slot k).toNat ∧ (s.slot k).toNat ≤ 0x1000) ∧ s.pc.toNat ≤ 0x10FE

end Sys2Proof.Machine

namespace Sys2Proof

open Machine

/-- The error an instruction raises by itself, if any, from the table of R178. -/
def Instr.ownFault (i : Instr) (s : State) : Option Fault :=
  match i with
  | .callNnn _ => if s.sp = 16 then some (.stackOverflow s.pc s.opc) else none
  | .ret => if s.sp = 0 then some (.stackUnderflow s.pc s.opc) else none
  | .drwVxVyN _ _ n =>
    if 1 ≤ n.toNat ∧ 4096 ≤ s.index.toNat + n.toNat - 1 then
      some (.memoryOverrun s.pc (some s.opc) (s.index.toNat + n.toNat - 1))
    else none
  | .ldBVx _ =>
    if 4096 ≤ s.index.toNat + 2 then some (.memoryOverrun s.pc (some s.opc) (s.index.toNat + 2)) else none
  | .ldMemIVx x =>
    if 4096 ≤ s.index.toNat + x.val then some (.memoryOverrun s.pc (some s.opc) (s.index.toNat + x.val)) else none
  | .ldVxMemI x =>
    if 4096 ≤ s.index.toNat + x.val then some (.memoryOverrun s.pc (some s.opc) (s.index.toNat + x.val)) else none
  | .skpVx x => if 15 < (s.reg x).toNat then some (.invalidKey s.pc s.opc (s.reg x)) else none
  | .sknpVx x => if 15 < (s.reg x).toNat then some (.invalidKey s.pc s.opc (s.reg x)) else none
  | _ => none

end Sys2Proof

namespace Sys2Proof.Machine

/-- The error a step reports, the first in the order fetch, dispatch, instruction (R178, R179). -/
def State.stepFault (s : State) : Option Fault :=
  if 4095 ≤ s.pc.toNat then some (.memoryOverrun s.pc none (s.pc.toNat + 1))
  else
    match decodeWord s.fetchWord with
    | .error _ => some (.unknownOpcode s.pc s.fetchWord)
    | .ok i => i.ownFault (s.latch s.fetchWord)

/-- A pixel under a set bit of a sprite of `n` rows at memory address `a`, placed at column `x0`, row `y0` (R161). -/
def State.covers (s : State) (a x0 y0 n : Nat) (py : Fin 32) (px : Fin 64) : Prop :=
  ∃ r, r < n ∧ ∃ c, c < 8 ∧ py.val = (y0 + r) % 32 ∧ px.val = (x0 + c) % 64 ∧ (s.mem.read (a + r)).getLsbD (7 - c) = true

end Sys2Proof.Machine

namespace Sys2Proof

open Machine

/-- The parts of the state that one instruction may write beside `pc`, `OPC` and `WAIT`, from the tables of R21 and R54
and the rules of the other registers (R26, R28 to R31, R33, R34). -/
def Instr.writes : Instr → List Part
  | .cls => [.fb]
  | .ret => [.sp]
  | .jpNnn _ => []
  | .callNnn _ => [.stack, .sp]
  | .seVxKk _ _ => []
  | .sneVxKk _ _ => []
  | .seVxVy _ _ => []
  | .ldVxKk _ _ => [.regs]
  | .addVxKk _ _ => [.regs]
  | .ldVxVy _ _ => [.regs]
  | .orVxVy _ _ => [.regs]
  | .andVxVy _ _ => [.regs]
  | .xorVxVy _ _ => [.regs]
  | .addVxVy _ _ => [.regs]
  | .subVxVy _ _ => [.regs]
  | .shrVx _ _ => [.regs]
  | .subnVxVy _ _ => [.regs]
  | .shlVx _ _ => [.regs]
  | .sneVxVy _ _ => []
  | .ldINnn _ => [.index]
  | .jpV0Nnn _ => []
  | .rndVxKk _ _ => [.regs, .draws]
  | .drwVxVyN _ _ _ => [.regs, .fb]
  | .skpVx _ => []
  | .sknpVx _ => []
  | .ldVxDt _ => [.regs]
  | .ldVxK _ => [.regs]
  | .ldDtVx _ => [.dt]
  | .ldStVx _ => [.st]
  | .addIVx _ => [.index]
  | .ldFVx _ => [.index]
  | .ldBVx _ => [.mem]
  | .ldMemIVx _ => [.mem]
  | .ldVxMemI _ => [.regs]

end Sys2Proof
end

