-- ==== Sys2Proof/Certificates/Slice0/Obligations.lean ====
section
/-! DEFINITION. The statements about the model, each from the rules of spec/ its docstring names. A statement that rests
on a decision of the spec (a point marked `[decision: ...]` there) or on a log entry says so. `s.ea k` is `I + k` (R59).
A fault carries no state: an instruction that faults commits nothing, and the event layer keeps the old state
(`Obligations.FailingEventChangesNothing`). What the error of a step carries beside its code is the spec's decision D9
(R177), what the error of a host operation carries is the model's (log entry 17). -/

open Sys2Proof Sys2Proof.Machine

/-! ## Encoding (30_encoding.md) -/

/-- Decoding gives back every instruction from its word, with every operand at every value (R71 to R78). -/
def Obligations.DecodeOfEncode : Prop := ∀ i : Instr, decodeWord (encode i) = .ok i

/-- A word that decodes is the word of the instruction it decodes to, so no bit of it is dropped (R70 to R78). -/
def Obligations.EncodeOfDecode : Prop := ∀ (w : Word) (i : Instr), decodeWord w = .ok i → encode i = w

/-- Decoding follows the opcode map (R78, R79; every fixed bit is checked by the spec's decision D3): a word that decodes
satisfies its instruction's row and no other, and a word that does not decode satisfies no row. -/
def Obligations.DecodeFollowsOpcodeMap : Prop :=
  ∀ w : Word,
    (∀ i, decodeWord w = .ok i → i.row.selects w = true ∧ ∀ r ∈ opcodeMap, r.selects w = true → r = i.row) ∧
    (∀ e, decodeWord w = .error e → e = .unknownOpcode w ∧ ∀ r ∈ opcodeMap, r.selects w = false)

/-- The unknown words are those of the table of R80, by top digit, low digit and low byte (spec decision D3). -/
def Obligations.UnknownWordsExactly : Prop :=
  ∀ w : Word, decodeWord w = .error (.unknownOpcode w) ↔
    (w.toNat / 4096 = 0x0 ∧ w.toNat ≠ 0x00E0 ∧ w.toNat ≠ 0x00EE) ∨
    (w.toNat / 4096 = 0x5 ∧ w.toNat % 16 ≠ 0) ∨
    (w.toNat / 4096 = 0x8 ∧ w.toNat % 16 ∈ [0x8, 0x9, 0xA, 0xB, 0xC, 0xD, 0xF]) ∨
    (w.toNat / 4096 = 0x9 ∧ w.toNat % 16 ≠ 0) ∨
    (w.toNat / 4096 = 0xE ∧ w.toNat % 256 ∉ [0x9E, 0xA1]) ∨
    (w.toNat / 4096 = 0xF ∧ w.toNat % 256 ∉ [0x07, 0x0A, 0x15, 0x18, 0x1E, 0x29, 0x33, 0x55, 0x65])

/-- A few words written out from the formats decode to their instructions (R72 to R78). -/
def Obligations.SampleWordsDecode : Prop :=
  wordIs 0x00EE .ret ∧ wordIs 0x220A (.callNnn 0x20A) ∧ wordIs 0x6A55 (.ldVxKk 10 0x55) ∧
    wordIs 0x8126 (.shrVx 1 2) ∧ wordIs 0xD125 (.drwVxVyN 1 2 5) ∧ wordIs 0xE7A1 (.sknpVx 7) ∧
    wordIs 0xF355 (.ldMemIVx 3)

/-! ## The step (40_step_cycle.md) -/

/-- When the two bytes at `pc` decode to an instruction, the step is that instruction's meaning on the state with the
word in the opcode latch; the step adds nothing else (R91 to R96; log entry 7). -/
def Obligations.StepRunsDecodedInstruction : Prop :=
  ∀ (s : State) (i : Instr), s.pc.toNat + 1 < 4096 →
    decodeWord (wordOfBytes (s.mem.read s.pc.toNat) (s.mem.read (s.pc.toNat + 1))) = .ok i →
    step s = exec i (s.latch (wordOfBytes (s.mem.read s.pc.toNat) (s.mem.read (s.pc.toNat + 1))))

/-- The fetch of R91: at `pc >= 4095` the step fails with the address `pc + 1`, else the word has the byte at `pc` as
its high byte and the byte at `pc + 1` as its low byte, whether `pc` is even or odd. That an odd `pc` is legal is the
spec's decision D6 (R53, log entry 10); that the error carries `pc` and no word is its decision D9 (R177). -/
def Obligations.FetchReadsTwoBytesOrFaults : Prop :=
  ∀ s : State,
    (4096 ≤ s.pc.toNat + 1 → step s = .fault (.memoryOverrun s.pc none (s.pc.toNat + 1))) ∧
    (s.pc.toNat + 1 < 4096 → ∃ w : Word, s.fetch = .ok w ∧
      w.toNat = 256 * (s.mem.read s.pc.toNat).toNat + (s.mem.read (s.pc.toNat + 1)).toNat)

/-- A fetched word that is no instruction makes the step fail with `UnknownOpcode` and that word, at any address, and no
other word does (R171). That the error carries `pc` beside the word is the spec's decision D9 (R177). -/
def Obligations.UnknownWordFaults : Prop :=
  ∀ (s : State) (w : Word), s.fetch = .ok w →
    ((∀ i, decodeWord w ≠ .ok i) → step s = .fault (.unknownOpcode s.pc w)) ∧
    (∀ p u, step s = .fault (.unknownOpcode p u) → p = s.pc ∧ u = w ∧ ∀ i, decodeWord w ≠ .ok i)

/-- A step that succeeds latches the fetched word in `OPC`, and sets `WAIT` exactly when it ran Fx0A with no key pressed,
in which case nothing else changes (R90, R97; the mechanism of the wait is the spec's decision D16). -/
def Obligations.StepLatchesOpcodeAndWait : Prop :=
  ∀ s t : State, step s = .next t →
    t.opc = s.fetchWord ∧
    (t.wait = true ↔ (∃ x, decodeWord s.fetchWord = .ok (.ldVxK x)) ∧ ∀ k, s.key k = false) ∧
    (t.wait = true → t = { s with opc := s.fetchWord, wait := true })

/-- An event that returns an error leaves the whole state as it was (R9, R180, and R176 for the host's operations; that
this covers `pc`, `OPC` and `WAIT` is the spec's decision D8). So does one that is refused, which is the model's own
outcome (log entry 6). -/
def Obligations.FailingEventChangesNothing : Prop :=
  ∀ (font : Font) (e : Event) (s : State),
    ((∃ f, (Events.apply font e s).1 = .err f) ∨ (∃ h, (Events.apply font e s).1 = .hostErr h) ∨
      (∃ r, (Events.apply font e s).1 = .refused r)) →
    (Events.apply font e s).2 = s

/-- With `SP` at most 16, a step fails exactly when the table of R178 says so, with the first error in the order of R179
(fetch, dispatch, instruction) and the record of R177. -/
def Obligations.StepFaultsExactly : Prop :=
  ∀ s : State, s.sp.toNat ≤ 16 → ∀ f : Fault, step s = .fault f ↔ s.stepFault = some f

/-- A step is refused exactly when it runs 00EE or 2nnn with `SP` above 16, the state no rule covers (R15, R29, R99, C14;
the refusal is the model's, log entry 6): with `SP` at most 16 every step has an outcome. -/
def Obligations.StepRefusesOnlyIllegalStackPointer : Prop :=
  ∀ (s : State) (r : Refusal), step s = .refused r ↔
    s.pc.toNat + 1 < 4096 ∧ 16 < s.sp.toNat ∧ r = .stackPointerRange s.sp ∧
      (decodeWord s.fetchWord = .ok .ret ∨ ∃ nnn, decodeWord s.fetchWord = .ok (.callNnn nnn))

/-- A failing step fails the same way after a `TICK` and after a `KEYS` event (R181, which the spec derives from
R180). -/
def Obligations.TickAndKeysCureNoFault : Prop :=
  ∀ (s : State) (f : Fault), step s = .fault f →
    step (Events.tick s) = .fault f ∧ ∀ k, step (Events.keys k s) = .fault f

/-- `OPC` and `WAIT` are outputs: no step depends on them (R35, R36; the spec's decisions D16 and D33). -/
def Obligations.LatchAndWaitAreNeverRead : Prop :=
  ∀ (s : State) (w : Word) (b : Bool), step { s with opc := w, wait := b } = step s

/-- Apart from Cxkk an instruction neither reads nor draws a random byte (R90, R99; `draws` is the model's field, log
entry 2). -/
def Obligations.RandomByteOnlyForRnd : Prop :=
  ∀ (i : Instr) (s : State) (d : Nat), (∀ x kk, i ≠ .rndVxKk x kk) →
    (∀ t, exec i s = .next t → exec i { s with draws := d } = .next { t with draws := d }) ∧
    (∀ f, exec i s = .fault f → exec i { s with draws := d } = .fault f) ∧
    (∀ r, exec i s = .refused r → exec i { s with draws := d } = .refused r)

/-- A step changes only the parts of the state that the tables of R21 and R54 and the rules of the single registers
(R26, R28 to R31, R33, R34) let its instruction write, beside `pc`, `OPC` and `WAIT`. The part `draws`, which Cxkk
alone writes, is the model's own (log entry 2). -/
def Obligations.StepChangesOnlyListedParts : Prop :=
  ∀ (s t : State) (i : Instr), step s = .next t → decodeWord s.fetchWord = .ok i →
    s.changesOnly t (i.writes ++ [.pc, .opc, .wait])

/-! ## Loads, arithmetic, logic, shifts, random (41_alu.md) -/

/-- 6xkk, 7xkk, 8xy0, 8xy1, 8xy2, 8xy3 (R107 to R112): the encoding, the value of `Vx`, `VF` and every other register
unchanged, `pc` at the next instruction. -/
def Obligations.PlainRegisterWrites : Prop :=
  ∀ (x y : Reg) (kk : Byte) (s : State),
    (wordIs (0x6000 + 256 * x.val + kk.toNat) (.ldVxKk x kk) ∧
      Completes (.ldVxKk x kk) s fun t => t.reg x = kk ∧
        s.keepsRegs t [x] ∧ t.okAt (s.pc + 2) ∧ s.changesOnly t [.regs, .pc, .wait]) ∧
    (wordIs (0x7000 + 256 * x.val + kk.toNat) (.addVxKk x kk) ∧
      Completes (.addVxKk x kk) s fun t => (t.reg x).toNat = ((s.reg x).toNat + kk.toNat) % 256 ∧
        s.keepsRegs t [x] ∧ t.okAt (s.pc + 2) ∧ s.changesOnly t [.regs, .pc, .wait]) ∧
    (wordIs (0x8000 + 256 * x.val + 16 * y.val) (.ldVxVy x y) ∧
      Completes (.ldVxVy x y) s fun t => t.reg x = s.reg y ∧
        s.keepsRegs t [x] ∧ t.okAt (s.pc + 2) ∧ s.changesOnly t [.regs, .pc, .wait]) ∧
    (wordIs (0x8001 + 256 * x.val + 16 * y.val) (.orVxVy x y) ∧
      Completes (.orVxVy x y) s fun t =>
        (∀ b, (t.reg x).getLsbD b = ((s.reg x).getLsbD b || (s.reg y).getLsbD b)) ∧
        s.keepsRegs t [x] ∧ t.okAt (s.pc + 2) ∧ s.changesOnly t [.regs, .pc, .wait]) ∧
    (wordIs (0x8002 + 256 * x.val + 16 * y.val) (.andVxVy x y) ∧
      Completes (.andVxVy x y) s fun t =>
        (∀ b, (t.reg x).getLsbD b = ((s.reg x).getLsbD b && (s.reg y).getLsbD b)) ∧
        s.keepsRegs t [x] ∧ t.okAt (s.pc + 2) ∧ s.changesOnly t [.regs, .pc, .wait]) ∧
    (wordIs (0x8003 + 256 * x.val + 16 * y.val) (.xorVxVy x y) ∧
      Completes (.xorVxVy x y) s fun t =>
        (∀ b, (t.reg x).getLsbD b = ((s.reg x).getLsbD b != (s.reg y).getLsbD b)) ∧
        s.keepsRegs t [x] ∧ t.okAt (s.pc + 2) ∧ s.changesOnly t [.regs, .pc, .wait])

/-- 8xy4, 8xy5, 8xy7 (R113, R114, R116, R105): the result modulo 256 in `Vx`, the carry or NOT borrow in `VF`, both from
the operands before the instruction. For `x = F` the flag remains, the spec's decision D11 (R106). -/
def Obligations.AddAndSubtractWithFlag : Prop :=
  ∀ (x y : Reg) (s : State),
    (wordIs (0x8004 + 256 * x.val + 16 * y.val) (.addVxVy x y) ∧
      Completes (.addVxVy x y) s fun t =>
        t.reg 15 = (if 255 < (s.reg x).toNat + (s.reg y).toNat then 1 else 0) ∧
        (x ≠ 15 → (t.reg x).toNat = ((s.reg x).toNat + (s.reg y).toNat) % 256) ∧
        s.keepsRegs t [x, 15] ∧ t.okAt (s.pc + 2) ∧ s.changesOnly t [.regs, .pc, .wait]) ∧
    (wordIs (0x8005 + 256 * x.val + 16 * y.val) (.subVxVy x y) ∧
      Completes (.subVxVy x y) s fun t =>
        t.reg 15 = (if (s.reg y).toNat ≤ (s.reg x).toNat then 1 else 0) ∧
        (x ≠ 15 → ((t.reg x).toNat : Int) = ((s.reg x).toNat - (s.reg y).toNat : Int) % 256) ∧
        s.keepsRegs t [x, 15] ∧ t.okAt (s.pc + 2) ∧ s.changesOnly t [.regs, .pc, .wait]) ∧
    (wordIs (0x8007 + 256 * x.val + 16 * y.val) (.subnVxVy x y) ∧
      Completes (.subnVxVy x y) s fun t =>
        t.reg 15 = (if (s.reg x).toNat ≤ (s.reg y).toNat then 1 else 0) ∧
        (x ≠ 15 → ((t.reg x).toNat : Int) = ((s.reg y).toNat - (s.reg x).toNat : Int) % 256) ∧
        s.keepsRegs t [x, 15] ∧ t.okAt (s.pc + 2) ∧ s.changesOnly t [.regs, .pc, .wait])

/-- 8xy6 and 8xyE (R115, R117, R105): `Vx` shifted by one place, the bit shifted out in `VF`, the field `y` ignored. For
`x = F` the flag remains, the spec's decision D11 (R106). -/
def Obligations.ShiftsByOne : Prop :=
  ∀ (x y : Reg) (s : State),
    (wordIs (0x8006 + 256 * x.val + 16 * y.val) (.shrVx x y) ∧
      Completes (.shrVx x y) s fun t =>
        (t.reg 15).toNat = (s.reg x).toNat % 2 ∧ (x ≠ 15 → (t.reg x).toNat = (s.reg x).toNat / 2) ∧
        s.keepsRegs t [x, 15] ∧ t.okAt (s.pc + 2) ∧ s.changesOnly t [.regs, .pc, .wait]) ∧
    (wordIs (0x800E + 256 * x.val + 16 * y.val) (.shlVx x y) ∧
      Completes (.shlVx x y) s fun t =>
        (t.reg 15).toNat = (s.reg x).toNat / 128 ∧ (x ≠ 15 → (t.reg x).toNat = 2 * (s.reg x).toNat % 256) ∧
        s.keepsRegs t [x, 15] ∧ t.okAt (s.pc + 2) ∧ s.changesOnly t [.regs, .pc, .wait])

/-- Cxkk (R118): `Vx` is the free byte of this step ANDed with `kk`, and no bit outside `kk` is set. The byte is the free
value of log entry 2 (the spec's decision D22), nothing is known of it, and the next draw is another one. -/
def Obligations.RandomByteMasked : Prop :=
  ∀ (x : Reg) (kk : Byte) (s : State),
    wordIs (0xC000 + 256 * x.val + kk.toNat) (.rndVxKk x kk) ∧
    Completes (.rndVxKk x kk) s fun t =>
      t.reg x = Config.rnd s.draws &&& kk ∧ t.reg x &&& ~~~kk = 0 ∧ t.draws = s.draws + 1 ∧
      s.keepsRegs t [x] ∧ t.okAt (s.pc + 2) ∧ s.changesOnly t [.regs, .pc, .wait, .draws]

/-! ## Control flow (42_control_flow.md) -/

/-- 00EE (R126): `pc` takes the most recent slot and `SP` falls by one; on an empty stack it fails with `StackUnderflow`.
That the popped slot keeps its value is the spec's decision D24. -/
def Obligations.ReturnPopsAddress : Prop :=
  wordIs 0x00EE .ret ∧ ∀ s : State,
    (1 ≤ s.sp.toNat → s.sp.toNat ≤ 16 → Completes .ret s fun t =>
      t.okAt (s.slot (s.sp.toNat - 1)) ∧ t.sp.toNat + 1 = s.sp.toNat ∧ s.changesOnly t [.pc, .wait, .sp]) ∧
    (s.sp.toNat = 0 → exec .ret s = .fault (.stackUnderflow s.pc s.opc))

/-- 2nnn (R127): the address after the call goes to `S[SP]`, `SP` rises by one, `pc` is `nnn`, the other slots are kept;
with 16 slots in use it fails with `StackOverflow`. That `SP` counts to 16 is the spec's decision D12. -/
def Obligations.CallPushesReturnAddress : Prop :=
  ∀ (nnn : Addr) (s : State),
    wordIs (0x2000 + nnn.toNat) (.callNnn nnn) ∧
    (s.sp.toNat ≤ 15 → Completes (.callNnn nnn) s fun t =>
      t.slot s.sp.toNat = s.pc + 2 ∧ (∀ k, k ≠ s.sp.toNat → t.slot k = s.slot k) ∧
      t.sp.toNat = s.sp.toNat + 1 ∧ t.pc.toNat = nnn.toNat ∧ t.wait = false ∧
      s.changesOnly t [.pc, .wait, .sp, .stack]) ∧
    (s.sp.toNat = 16 → exec (.callNnn nnn) s = .fault (.stackOverflow s.pc s.opc))

/-- A return right after a call comes back behind the call, with `SP` and every slot in use as before (R126, R127). -/
def Obligations.CallThenReturnResumes : Prop :=
  ∀ (nnn : Addr) (s : State), s.sp.toNat ≤ 15 →
    Completes (.callNnn nnn) s fun t => Completes .ret t fun u =>
      u.okAt (s.pc + 2) ∧ u.sp = s.sp ∧ (∀ k, k < s.sp.toNat → u.slot k = s.slot k) ∧
      s.changesOnly u [.pc, .wait, .stack]

/-- Sixteen calls nest from an empty stack, and a seventeenth fails with `StackOverflow` (R127, R134). -/
def Obligations.SixteenCallsNest : Prop :=
  ∀ (addrs : List Addr) (nnn : Addr) (s : State), addrs.length = 16 → s.sp = 0 →
    ∃ t, callAll addrs s = .next t ∧ t.sp.toNat = 16 ∧ exec (.callNnn nnn) t = .fault (.stackOverflow t.pc t.opc)

/-- 1nnn and Bnnn (R128, R129): `pc` is `nnn`, or `nnn + V0` as a whole number, and nothing else changes; a target that
cannot be fetched makes the next step fail, the spec's decision D7 (R125). -/
def Obligations.JumpsStoreTheirTarget : Prop :=
  ∀ (nnn : Addr) (s : State),
    (wordIs (0x1000 + nnn.toNat) (.jpNnn nnn) ∧
      Completes (.jpNnn nnn) s fun t => t.pc.toNat = nnn.toNat ∧ t.wait = false ∧ s.changesOnly t [.pc, .wait] ∧
        (4095 ≤ t.pc.toNat → step t = .fault (.memoryOverrun t.pc none (t.pc.toNat + 1)))) ∧
    (wordIs (0xB000 + nnn.toNat) (.jpV0Nnn nnn) ∧
      Completes (.jpV0Nnn nnn) s fun t =>
        t.pc.toNat = nnn.toNat + (s.reg 0).toNat ∧ t.wait = false ∧ s.changesOnly t [.pc, .wait] ∧
        (4095 ≤ t.pc.toNat → step t = .fault (.memoryOverrun t.pc none (t.pc.toNat + 1))))

/-- 3xkk and 4xkk (R130, R131): `pc` passes over the next instruction exactly when `Vx` equals, or differs from, the
immediate, and nothing else changes. -/
def Obligations.ImmediateSkips : Prop :=
  ∀ (x : Reg) (kk : Byte) (s : State),
    (wordIs (0x3000 + 256 * x.val + kk.toNat) (.seVxKk x kk) ∧
      Completes (.seVxKk x kk) s fun t =>
        t.okAt (if (s.reg x).toNat = kk.toNat then s.pc + 4 else s.pc + 2) ∧ s.changesOnly t [.pc, .wait]) ∧
    (wordIs (0x4000 + 256 * x.val + kk.toNat) (.sneVxKk x kk) ∧
      Completes (.sneVxKk x kk) s fun t =>
        t.okAt (if (s.reg x).toNat = kk.toNat then s.pc + 2 else s.pc + 4) ∧ s.changesOnly t [.pc, .wait])

/-- 5xy0 and 9xy0 (R132, R133): the same comparison between two registers. A word with the same digits but another last
one is no instruction, the spec's decision D3. -/
def Obligations.RegisterSkips : Prop :=
  ∀ (x y : Reg) (s : State),
    (wordIs (0x5000 + 256 * x.val + 16 * y.val) (.seVxVy x y) ∧
      Completes (.seVxVy x y) s fun t =>
        t.okAt (if (s.reg x).toNat = (s.reg y).toNat then s.pc + 4 else s.pc + 2) ∧ s.changesOnly t [.pc, .wait]) ∧
    (wordIs (0x9000 + 256 * x.val + 16 * y.val) (.sneVxVy x y) ∧
      Completes (.sneVxVy x y) s fun t =>
        t.okAt (if (s.reg x).toNat = (s.reg y).toNat then s.pc + 2 else s.pc + 4) ∧ s.changesOnly t [.pc, .wait]) ∧
    (∀ (n : Nibble) (i : Instr), 1 ≤ n.toNat →
      ¬ wordIs (0x5000 + 256 * x.val + 16 * y.val + n.toNat) i ∧
      ¬ wordIs (0x9000 + 256 * x.val + 16 * y.val + n.toNat) i)

/-! ## Index and memory transfer (43_memory_transfer.md) -/

/-- Annn and Fx1E (R140, R141): `I` is `nnn`, or `I + Vx` modulo 65536 with no flag, and nothing else but `pc`
moves. That `I` keeps 16 bits is the spec's decision D4. -/
def Obligations.IndexLoadAndAdd : Prop :=
  ∀ (nnn : Addr) (x : Reg) (s : State),
    (wordIs (0xA000 + nnn.toNat) (.ldINnn nnn) ∧
      Completes (.ldINnn nnn) s fun t => t.index.toNat = nnn.toNat ∧
        t.okAt (s.pc + 2) ∧ s.changesOnly t [.index, .pc, .wait]) ∧
    (wordIs (0xF01E + 256 * x.val) (.addIVx x) ∧
      Completes (.addIVx x) s fun t => t.index.toNat = (s.index.toNat + (s.reg x).toNat) % 65536 ∧
        t.okAt (s.pc + 2) ∧ s.changesOnly t [.index, .pc, .wait])

/-- Fx29 (R142): `I` is `0x050 + 5 * Vx` on the whole byte; that no nibble is masked is the spec's decision D18, the base
its decision D19. -/
def Obligations.GlyphAddress : Prop :=
  ∀ (x : Reg) (s : State),
    wordIs (0xF029 + 256 * x.val) (.ldFVx x) ∧
    Completes (.ldFVx x) s fun t => t.index.toNat = 0x050 + 5 * (s.reg x).toNat ∧
      t.okAt (s.pc + 2) ∧ s.changesOnly t [.index, .pc, .wait]

/-- Fx33 (R143): the hundreds, tens and ones of `Vx` at `I`, `I+1`, `I+2`, no other byte written; when `I + 2` is
outside memory it fails with that address. That the whole range is checked first and no address wraps are the spec's
decisions D4 and D14. -/
def Obligations.StoresDecimalDigits : Prop :=
  ∀ (x : Reg) (s : State),
    wordIs (0xF033 + 256 * x.val) (.ldBVx x) ∧
    (s.ea 2 < 4096 → Completes (.ldBVx x) s fun t =>
      (t.mem.read (s.ea 0)).toNat = (s.reg x).toNat / 100 ∧
      (t.mem.read (s.ea 1)).toNat = (s.reg x).toNat / 10 % 10 ∧
      (t.mem.read (s.ea 2)).toNat = (s.reg x).toNat % 10 ∧
      s.keepsBytes t (s.ea 0) 3 ∧ t.okAt (s.pc + 2) ∧ s.changesOnly t [.mem, .pc, .wait]) ∧
    (4096 ≤ s.ea 2 → exec (.ldBVx x) s = .fault (.memoryOverrun s.pc (some s.opc) (s.ea 2)))

/-- Fx55 (R144): `V0` to `Vx` at `I` to `I+x`, no other byte written, `I` and the registers kept; when `I + x` is outside
memory it fails with that address and writes nothing. That the whole range is checked first and no address wraps are the
spec's decisions D4 and D14. -/
def Obligations.StoresRegisters : Prop :=
  ∀ (x : Reg) (s : State),
    wordIs (0xF055 + 256 * x.val) (.ldMemIVx x) ∧
    (s.ea x.val < 4096 → Completes (.ldMemIVx x) s fun t =>
      (∀ r : Reg, r.val ≤ x.val → t.mem.read (s.ea r.val) = s.reg r) ∧
      s.keepsBytes t (s.ea 0) (x.val + 1) ∧ t.okAt (s.pc + 2) ∧ s.changesOnly t [.mem, .pc, .wait]) ∧
    (4096 ≤ s.ea x.val → exec (.ldMemIVx x) s = .fault (.memoryOverrun s.pc (some s.opc) (s.ea x.val)))

/-- Fx65 (R145): `V0` to `Vx` from `I` to `I+x`, the registers above `Vx`, `I` and memory kept; when `I + x` is outside
memory it fails with that address and loads nothing. That the whole range is checked first and no address wraps are the
spec's decisions D4 and D14. -/
def Obligations.LoadsRegisters : Prop :=
  ∀ (x : Reg) (s : State),
    wordIs (0xF065 + 256 * x.val) (.ldVxMemI x) ∧
    (s.ea x.val < 4096 → Completes (.ldVxMemI x) s fun t =>
      (∀ r : Reg, r.val ≤ x.val → t.reg r = s.mem.read (s.ea r.val)) ∧
      (∀ r : Reg, x.val < r.val → t.reg r = s.reg r) ∧
      t.okAt (s.pc + 2) ∧ s.changesOnly t [.regs, .pc, .wait]) ∧
    (4096 ≤ s.ea x.val → exec (.ldVxMemI x) s = .fault (.memoryOverrun s.pc (some s.opc) (s.ea x.val)))

/-- A store is seen by the very next fetch (R64, which the spec derives from R51 and R62): when Fx55 with `x >= 1`
stores at the address after itself, the next word is made of `V0` and `V1`. -/
def Obligations.StoreSeenByNextFetch : Prop :=
  ∀ (x : Reg) (s : State), 1 ≤ x.val → s.pc.toNat + 2 = s.ea 0 → s.ea x.val < 4096 →
    Completes (.ldMemIVx x) s fun t => t.fetch = .ok (wordOfBytes (s.reg 0) (s.reg 1))

/-! ## Keypad and timers (44_input_timers.md) -/

/-- Ex9E and ExA1 (R150, R151): with a key number up to 15 the skip is taken exactly when the key is, or is not, pressed;
above 15 they fail with `InvalidKey`, the spec's decision D17. -/
def Obligations.KeySkips : Prop :=
  ∀ (x : Reg) (s : State),
    wordIs (0xE09E + 256 * x.val) (.skpVx x) ∧ wordIs (0xE0A1 + 256 * x.val) (.sknpVx x) ∧
    (∀ k : Fin 16, (s.reg x).toNat = k.val →
      (Completes (.skpVx x) s fun t =>
        t.okAt (if s.key k = true then s.pc + 4 else s.pc + 2) ∧ s.changesOnly t [.pc, .wait]) ∧
      (Completes (.sknpVx x) s fun t =>
        t.okAt (if s.key k = true then s.pc + 2 else s.pc + 4) ∧ s.changesOnly t [.pc, .wait])) ∧
    (16 ≤ (s.reg x).toNat →
      exec (.skpVx x) s = .fault (.invalidKey s.pc s.opc (s.reg x)) ∧
      exec (.sknpVx x) s = .fault (.invalidKey s.pc s.opc (s.reg x)))

/-- Fx0A (R152): with no key pressed nothing changes but `WAIT`; else `Vx` is the lowest-numbered pressed key. The wait's
mechanism and the choice of the key are the spec's decisions D15 and D16. -/
def Obligations.WaitsForKey : Prop :=
  ∀ (x : Reg) (s : State),
    wordIs (0xF00A + 256 * x.val) (.ldVxK x) ∧
    ((∀ k, s.key k = false) → exec (.ldVxK x) s = .next { s with wait := true }) ∧
    (∀ k : Fin 16, s.key k = true → (∀ j : Fin 16, j.val < k.val → s.key j = false) →
      Completes (.ldVxK x) s fun t => (t.reg x).toNat = k.val ∧
        s.keepsRegs t [x] ∧ t.okAt (s.pc + 2) ∧ s.changesOnly t [.regs, .pc, .wait])

/-- Fx07, Fx15, Fx18 (R153 to R155): `DT` to `Vx`, `Vx` to `DT`, `Vx` to `ST`, and nothing else but `pc` moves. -/
def Obligations.TimerMoves : Prop :=
  ∀ (x : Reg) (s : State),
    (wordIs (0xF007 + 256 * x.val) (.ldVxDt x) ∧
      Completes (.ldVxDt x) s fun t => t.reg x = s.dt ∧
        s.keepsRegs t [x] ∧ t.okAt (s.pc + 2) ∧ s.changesOnly t [.regs, .pc, .wait]) ∧
    (wordIs (0xF015 + 256 * x.val) (.ldDtVx x) ∧
      Completes (.ldDtVx x) s fun t => t.dt = s.reg x ∧
        t.okAt (s.pc + 2) ∧ s.changesOnly t [.dt, .pc, .wait]) ∧
    (wordIs (0xF018 + 256 * x.val) (.ldStVx x) ∧
      Completes (.ldStVx x) s fun t => t.st = s.reg x ∧
        t.okAt (s.pc + 2) ∧ s.changesOnly t [.st, .pc, .wait])

/-! ## Display (45_display.md) -/

/-- 00E0 (R160): every pixel is 0, no register changes. -/
def Obligations.ClearsFramebuffer : Prop :=
  wordIs 0x00E0 .cls ∧ ∀ s : State, Completes .cls s fun t =>
    (∀ py px, t.fb.pixel py px = false) ∧ t.okAt (s.pc + 2) ∧ s.changesOnly t [.fb, .pc, .wait]

/-- Dxyn (R161, R162): the loop of the pseudocode equals one XOR over the pixels the sprite covers, with wrap at both
edges, and `VF` is 1 exactly when a covered pixel was set; a sprite that leaves memory fails with its last address and
draws nothing. The bound check before drawing, the coordinates from the old registers and the left-right order are the
spec's decisions D14, D10 and D34. -/
def Obligations.DrawIsXorOfCoveredPixels : Prop :=
  ∀ (x y : Reg) (n : Nibble) (s : State),
    wordIs (0xD000 + 256 * x.val + 16 * y.val + n.toNat) (.drwVxVyN x y n) ∧
    ((n.toNat = 0 ∨ s.ea (n.toNat - 1) < 4096) → Completes (.drwVxVyN x y n) s fun t =>
      (∀ py px, t.fb.pixel py px = true ↔
        ((s.fb.pixel py px = true) ↔ ¬ s.covers (s.ea 0) (s.reg x).toNat (s.reg y).toNat n.toNat py px)) ∧
      (t.reg 15 = 0 ∨ t.reg 15 = 1) ∧
      (t.reg 15 = 1 ↔ ∃ py px, s.fb.pixel py px = true ∧
        s.covers (s.ea 0) (s.reg x).toNat (s.reg y).toNat n.toNat py px) ∧
      s.keepsRegs t [15] ∧ t.okAt (s.pc + 2) ∧ s.changesOnly t [.regs, .fb, .pc, .wait]) ∧
    (1 ≤ n.toNat → 4096 ≤ s.ea (n.toNat - 1) →
      exec (.drwVxVyN x y n) s = .fault (.memoryOverrun s.pc (some s.opc) (s.ea (n.toNat - 1))))

/-- Drawing the same sprite twice at the same place restores the framebuffer, and the second draw gives `VF = 1` exactly
when the sprite covers a pixel that was clear before the first, so on a clear framebuffer exactly when the sprite has a
set bit. R162 (d), which the spec derives from R161, leaves out that condition (log entry 14). The place is the same when
neither coordinate register is `VF`, which the first draw writes. -/
def Obligations.DrawTwiceRestores : Prop :=
  ∀ (x y : Reg) (n : Nibble) (s : State), x ≠ 15 → y ≠ 15 → (n.toNat = 0 ∨ s.ea (n.toNat - 1) < 4096) →
    Completes (.drwVxVyN x y n) s fun t => Completes (.drwVxVyN x y n) t fun u =>
      (∀ py px, u.fb.pixel py px = s.fb.pixel py px) ∧
      (u.reg 15 = 1 ↔ ∃ py px, s.fb.pixel py px = false ∧
        s.covers (s.ea 0) (s.reg x).toNat (s.reg y).toNat n.toNat py px) ∧
      ((∀ py px, s.fb.pixel py px = false) →
        (u.reg 15 = 1 ↔ ∃ r b, r < n.toNat ∧ b < 8 ∧ (s.mem.read (s.ea r)).getLsbD b = true))

/-! ## Reset, load and the other events (60_exceptions.md, 70_reset_and_hazards.md) -/

/-- `RESET`, for any font (R41, R200): every register, slot, key, pixel and flag is 0, `pc` is 0x0200, memory holds the
font at 0x050 and 0 elsewhere; `I`, `SP`, `FB`, `OPC` and `WAIT` by the spec's decision D28. With the default font (log
entry 1) this is `State.reset`, up to the model's counter of draws (log entry 3). -/
def Obligations.ResetLeavesInitialState : Prop :=
  ∀ (font : Font) (s : State),
    let t := (Events.apply font .reset s).2
    (∀ r, t.reg r = 0) ∧ t.index = 0 ∧ t.pc = 0x0200 ∧ (∀ k, t.slot k = 0) ∧ t.sp = 0 ∧ t.dt = 0 ∧ t.st = 0 ∧
    (∀ k, t.key k = false) ∧ (∀ py px, t.fb.pixel py px = false) ∧ t.opc = 0 ∧ t.wait = false ∧
    (∀ j : Fin 80, t.mem.read (0x050 + j.val) = font[j]) ∧
    (∀ a, a < 0x050 ∨ 0x0A0 ≤ a → t.mem.read a = 0) ∧
    (Events.apply Config.font .reset s).2 = { State.reset with draws := s.draws }

/-- `RESET` then `LOAD` forgets the past (R203, which the spec derives from R200 and R204): from any two states it ends
in the same state, up to the model's counter of draws (log entry 3). -/
def Obligations.ResetThenLoadForgetsThePast : Prop :=
  ∀ (font : Font) (rom : List Byte) (s₁ s₂ : State),
    { Events.run font [.reset, .load rom] s₁ with draws := 0 } =
      { Events.run font [.reset, .load rom] s₂ with draws := 0 }

/-- `LOAD` (R204, R205): a program of at most 3584 bytes is copied to 0x200 and nothing else changes; a longer one
fails with `ProgramTooLarge` and the state is unchanged. That the error carries the length is the model's choice, log
entry 17. -/
def Obligations.LoadCopiesProgram : Prop :=
  ∀ (font : Font) (bytes : List Byte) (s : State),
    (bytes.length ≤ 3584 →
      (Events.apply font (.load bytes) s).1 = .ok ∧
      (∀ (j : Nat) (h : j < bytes.length), (Events.apply font (.load bytes) s).2.mem.read (0x200 + j) = bytes[j]) ∧
      s.keepsBytes (Events.apply font (.load bytes) s).2 0x200 bytes.length ∧
      s.changesOnly (Events.apply font (.load bytes) s).2 [.mem]) ∧
    (3584 < bytes.length → Events.apply font (.load bytes) s = (.hostErr (.programTooLarge bytes.length), s))

/-- `TICK` (R183): each timer falls by 1 if it is not 0, and nothing else changes; the host issues it when it likes (the
spec's decision D32). -/
def Obligations.TickCountsDown : Prop :=
  ∀ (font : Font) (s : State), ∃ t, Events.apply font .tick s = (.ok, t) ∧
    t.dt.toNat = s.dt.toNat - 1 ∧ t.st.toNat = s.st.toNat - 1 ∧ s.changesOnly t [.dt, .st]

/-- `KEYS(k)` (R184): each key flag is its bit of `k` and nothing else changes, and no step and no event but `KEYS` and
`RESET` (R184) and the host's `POKE` (R190, which R184 does not name) changes a key flag. -/
def Obligations.KeysAreLatched : Prop :=
  ∀ (font : Font) (k : BitVec 16) (s : State),
    (∃ t, Events.apply font (.keys k) s = (.ok, t) ∧ (∀ i : Fin 16, t.key i = k.getLsbD i.val) ∧
      s.changesOnly t [.keys]) ∧
    (∀ t, step s = .next t → ∀ i : Fin 16, t.key i = s.key i) ∧
    (∀ e : Event, e ≠ .reset → (∀ j, e ≠ .keys j) → (∀ p, e ≠ .poke p) →
      ∀ i : Fin 16, (Events.apply font e s).2.key i = s.key i)

/-- Host accessors (R190; which pieces of state they reach is the spec's decision D29): a register number above 15 and
an address above 4095 fail with their errors, and a byte poked is the byte peeked, no other cell changed. That the
errors carry the number or address is the model's choice, log entry 17. -/
def Obligations.PokeThenPeek : Prop :=
  ∀ (font : Font) (n a : Nat) (u : Byte) (s : State),
    (∀ h : n < 16, ∃ t, Events.apply font (.poke (.reg n u)) s = (.ok, t) ∧
      Events.apply font (.peek (.reg n)) t = (.value (.byte u), t) ∧
      s.keepsRegs t [⟨n, h⟩] ∧ s.changesOnly t [.regs]) ∧
    (16 ≤ n → Events.apply font (.poke (.reg n u)) s = (.hostErr (.invalidRegister n), s) ∧
      Events.apply font (.peek (.reg n)) s = (.hostErr (.invalidRegister n), s)) ∧
    (a < 4096 → ∃ t, Events.apply font (.poke (.mem a u)) s = (.ok, t) ∧
      Events.apply font (.peek (.mem a)) t = (.value (.byte u), t) ∧
      s.keepsBytes t a 1 ∧ s.changesOnly t [.mem]) ∧
    (4096 ≤ a → Events.apply font (.poke (.mem a u)) s = (.hostErr (.invalidAddress a), s) ∧
      Events.apply font (.peek (.mem a)) s = (.hostErr (.invalidAddress a), s))

/-- A parked state is a fixed point of the step but for `OPC` and `WAIT` (R208; the definition of parked is the spec's
decision D30). -/
def Obligations.ParkedStateStays : Prop :=
  ∀ s : State, s.parked = true → step s = .next { s with opc := s.fetchWord, wait := false }

/-! ## Invariants (10_state.md R40) -/

/-- The state after reset meets the invariant. -/
def Obligations.ResetMeetsInvariant : Prop := State.reset.Inv

/-- Every step keeps the invariant, from every state that meets it (R40, which the spec derives from R24, R29, R126 and
R127): memory keeps its canonical form (the model's, log entry 4), `SP` stays at most 16, every slot in use holds 2 to
0x1000, `pc` stays at most 0x10FE. -/
def Obligations.StepKeepsInvariant : Prop := ∀ s t : State, s.Inv → step s = .next t → t.Inv

/-- Every sequence of events without a `POKE` keeps the invariant, for any font and from every state that meets it
(R40 for `SP`, the slots in use and `pc`; that memory keeps its canonical form is the model's, log entry 4). -/
def Obligations.EventsKeepInvariant : Prop :=
  ∀ (font : Font) (es : List Event) (s : State), (∀ e ∈ es, ∀ p, e ≠ .poke p) → s.Inv →
    (Events.run font es s).Inv
end

