-- ==== Sys2Proof/Laws/Decode.lean ====
section
/-! SUPPORT. The fields of a word as arithmetic on its number, and the fields of each encoding format: decoding and
encoding proofs cite these and never look at single bits. -/

namespace Sys2Proof

theorem Word.op_toNat (w : Word) : w.op.toNat = w.toNat / 4096 := by
  have := w.isLt
  simp only [Word.op, BitVec.extractLsb'_toNat, Nat.shiftRight_eq_div_pow]
  omega

theorem Word.x_val (w : Word) : w.x.val = w.toNat / 256 % 16 := by
  change (w.extractLsb' 8 4).toNat = _
  simp only [BitVec.extractLsb'_toNat, Nat.shiftRight_eq_div_pow]

theorem Word.y_val (w : Word) : w.y.val = w.toNat / 16 % 16 := by
  change (w.extractLsb' 4 4).toNat = _
  simp only [BitVec.extractLsb'_toNat, Nat.shiftRight_eq_div_pow]

theorem Word.n_toNat (w : Word) : w.n.toNat = w.toNat % 16 := by
  simp only [Word.n, BitVec.extractLsb'_toNat, Nat.shiftRight_zero]

theorem Word.kk_toNat (w : Word) : w.kk.toNat = w.toNat % 256 := by
  simp only [Word.kk, BitVec.extractLsb'_toNat, Nat.shiftRight_zero]

theorem Word.nnn_toNat (w : Word) : w.nnn.toNat = w.toNat % 4096 := by
  simp only [Word.nnn, BitVec.extractLsb'_toNat, Nat.shiftRight_zero]

/-- Appending a field below another adds its number. -/
theorem or_eq_add {a b k : Nat} (h : b < 2 ^ k) : a * 2 ^ k ||| b = a * 2 ^ k + b := by
  rw [Nat.mul_comm, ← Nat.two_pow_add_eq_or_of_lt h]

/-- The byte at the lower address is the high byte (R52). -/
theorem wordOfBytes_toNat (hi lo : Byte) : (wordOfBytes hi lo).toNat = 256 * hi.toNat + lo.toNat := by
  simp only [wordOfBytes, BitVec.toNat_append, Nat.shiftLeft_eq]
  rw [or_eq_add lo.isLt]; omega

theorem Reg.bits_toNat (x : Reg) : x.bits.toNat = x.val := rfl

/-- Format NNN as a number (R73). -/
theorem encNNN_toNat (op : Nibble) (nnn : Addr) : (encNNN op nnn).toNat = 4096 * op.toNat + nnn.toNat := by
  simp only [encNNN, BitVec.toNat_append, Nat.shiftLeft_eq]
  rw [or_eq_add nnn.isLt]; omega

/-- Format XKK as a number (R74, R76). -/
theorem encXKK_toNat (op : Nibble) (x : Reg) (kk : Byte) :
    (encXKK op x kk).toNat = 4096 * op.toNat + 256 * x.val + kk.toNat := by
  simp only [encXKK, BitVec.toNat_append, Nat.shiftLeft_eq, Reg.bits_toNat]
  rw [or_eq_add kk.isLt, or_eq_add (b := x.val) (k := 4) x.isLt]; omega

/-- Formats XY and XYN as a number (R75). -/
theorem encXYN_toNat (op : Nibble) (x y : Reg) (n : Nibble) :
    (encXYN op x y n).toNat = 4096 * op.toNat + 256 * x.val + 16 * y.val + n.toNat := by
  simp only [encXYN, BitVec.toNat_append, Nat.shiftLeft_eq, Reg.bits_toNat]
  rw [or_eq_add n.isLt, or_eq_add (b := y.val) (k := 4) y.isLt, or_eq_add (b := x.val) (k := 4) x.isLt]; omega

/-- Two words with the same number are the same word. -/
theorem encNNN_eq (op : Nibble) (nnn : Addr) : encNNN op nnn = BitVec.ofNat 16 (4096 * op.toNat + nnn.toNat) :=
  BitVec.eq_of_toNat_eq (by have := op.isLt; have := nnn.isLt; rw [encNNN_toNat, BitVec.toNat_ofNat]; omega)

theorem encXKK_eq (op : Nibble) (x : Reg) (kk : Byte) :
    encXKK op x kk = BitVec.ofNat 16 (4096 * op.toNat + 256 * x.val + kk.toNat) :=
  BitVec.eq_of_toNat_eq (by
    have := op.isLt; have := x.isLt; have := kk.isLt; rw [encXKK_toNat, BitVec.toNat_ofNat]; omega)

theorem encXYN_eq (op : Nibble) (x y : Reg) (n : Nibble) :
    encXYN op x y n = BitVec.ofNat 16 (4096 * op.toNat + 256 * x.val + 16 * y.val + n.toNat) :=
  BitVec.eq_of_toNat_eq (by
    have := op.isLt; have := x.isLt; have := y.isLt; have := n.isLt; rw [encXYN_toNat, BitVec.toNat_ofNat]; omega)

/-! ### The fields of each format -/

@[simp] theorem encNNN_op (op : Nibble) (nnn : Addr) : (encNNN op nnn).op = op :=
  BitVec.eq_of_toNat_eq (by have := nnn.isLt; rw [Word.op_toNat, encNNN_toNat]; omega)

@[simp] theorem encNNN_nnn (op : Nibble) (nnn : Addr) : (encNNN op nnn).nnn = nnn :=
  BitVec.eq_of_toNat_eq (by have := nnn.isLt; rw [Word.nnn_toNat, encNNN_toNat]; omega)

@[simp] theorem encXKK_op (op : Nibble) (x : Reg) (kk : Byte) : (encXKK op x kk).op = op :=
  BitVec.eq_of_toNat_eq (by have := x.isLt; have := kk.isLt; rw [Word.op_toNat, encXKK_toNat]; omega)

@[simp] theorem encXKK_x (op : Nibble) (x : Reg) (kk : Byte) : (encXKK op x kk).x = x :=
  Fin.ext (by have := x.isLt; have := kk.isLt; rw [Word.x_val, encXKK_toNat]; omega)

@[simp] theorem encXKK_kk (op : Nibble) (x : Reg) (kk : Byte) : (encXKK op x kk).kk = kk :=
  BitVec.eq_of_toNat_eq (by have := kk.isLt; rw [Word.kk_toNat, encXKK_toNat]; omega)

@[simp] theorem encXYN_op (op : Nibble) (x y : Reg) (n : Nibble) : (encXYN op x y n).op = op :=
  BitVec.eq_of_toNat_eq (by
    have := x.isLt; have := y.isLt; have := n.isLt; rw [Word.op_toNat, encXYN_toNat]; omega)

@[simp] theorem encXYN_x (op : Nibble) (x y : Reg) (n : Nibble) : (encXYN op x y n).x = x :=
  Fin.ext (by have := x.isLt; have := y.isLt; have := n.isLt; rw [Word.x_val, encXYN_toNat]; omega)

@[simp] theorem encXYN_y (op : Nibble) (x y : Reg) (n : Nibble) : (encXYN op x y n).y = y :=
  Fin.ext (by have := x.isLt; have := y.isLt; have := n.isLt; rw [Word.y_val, encXYN_toNat]; omega)

@[simp] theorem encXYN_n (op : Nibble) (x y : Reg) (n : Nibble) : (encXYN op x y n).n = n :=
  BitVec.eq_of_toNat_eq (by have := n.isLt; rw [Word.n_toNat, encXYN_toNat]; omega)

/-! ### The fixed bits of each format, under the masks of R78 -/

/-- Format NNN fixes `op` (R73). -/
theorem encNNN_mask (op : Nibble) (nnn : Addr) : encNNN op nnn &&& 0xF000 = encNNN op 0 := by
  apply BitVec.eq_of_getLsbD_eq
  intro k hk
  simp only [encNNN, BitVec.getLsbD_and, BitVec.getLsbD_append]
  interval_cases k <;> simp

/-- Format XKK fixes `op` (R74). -/
theorem encXKK_mask (op : Nibble) (x : Reg) (kk : Byte) : encXKK op x kk &&& 0xF000 = encXKK op 0 0 := by
  apply BitVec.eq_of_getLsbD_eq
  intro k hk
  simp only [encXKK, BitVec.getLsbD_and, BitVec.getLsbD_append]
  interval_cases k <;> simp [Reg.bits]

/-- Format X fixes `op` and `kk` (R76). -/
theorem encXKK_maskKk (op : Nibble) (x : Reg) (kk : Byte) : encXKK op x kk &&& 0xF0FF = encXKK op 0 kk := by
  apply BitVec.eq_of_getLsbD_eq
  intro k hk
  simp only [encXKK, BitVec.getLsbD_and, BitVec.getLsbD_append]
  interval_cases k <;> simp [Reg.bits]

/-- Format XYN fixes `op` (R75). -/
theorem encXYN_mask (op : Nibble) (x y : Reg) (n : Nibble) : encXYN op x y n &&& 0xF000 = encXYN op 0 0 0 := by
  apply BitVec.eq_of_getLsbD_eq
  intro k hk
  simp only [encXYN, BitVec.getLsbD_and, BitVec.getLsbD_append]
  interval_cases k <;> simp [Reg.bits]

/-- Format XY fixes `op` and `n` (R75). -/
theorem encXYN_maskN (op : Nibble) (x y : Reg) (n : Nibble) : encXYN op x y n &&& 0xF00F = encXYN op 0 0 n := by
  apply BitVec.eq_of_getLsbD_eq
  intro k hk
  simp only [encXYN, BitVec.getLsbD_and, BitVec.getLsbD_append]
  interval_cases k <;> simp [Reg.bits]

end Sys2Proof
end

