-- ==== Sys2Proof/Laws/Display.lean ====
section
/-! SUPPORT. Pixels: a pixel after a pixel is written, and what one visit and one row of the drawing loop do. -/

namespace Sys2Proof.Machine

/-- A pixel after one pixel is written (R34). -/
@[simp] theorem Framebuffer.pixel_setPixel (f : Framebuffer) (py qy : Fin 32) (px qx : Fin 64) (b : Bool) :
    (f.setPixel py px b).pixel qy qx = if qy = py ∧ qx = px then b else f.pixel qy qx := by
  simp only [Framebuffer.pixel, Framebuffer.setPixel, Fin.getElem_fin, Vector.getElem_set]
  by_cases hy : qy = py
  · subst hy
    by_cases hx : qx = px
    · subst hx; simp
    · have : px.val ≠ qx.val := fun e => hx (Fin.ext e.symm)
      simp [hx, this]
  · have : py.val ≠ qy.val := fun e => hy (Fin.ext e.symm)
    simp [hy, this]

/-- Every pixel of the clear framebuffer is 0 (R160). -/
@[simp] theorem Framebuffer.pixel_clear (py : Fin 32) (px : Fin 64) : Framebuffer.clear.pixel py px = false := by
  simp [Framebuffer.pixel, Framebuffer.clear]

/-- Toggling a pixel (R161). -/
@[simp] theorem Canvas.toggle_pixel (c : Canvas) (py qy : Fin 32) (px qx : Fin 64) :
    (c.toggle py px).fb.pixel qy qx = if qy = py ∧ qx = px then !c.fb.pixel qy qx else c.fb.pixel qy qx := by
  simp only [Canvas.toggle, Framebuffer.pixel_setPixel]
  split
  · rename_i h; rw [h.1, h.2]
  · rfl

@[simp] theorem Canvas.toggle_coll (c : Canvas) (py : Fin 32) (px : Fin 64) :
    (c.toggle py px).coll = (c.coll || c.fb.pixel py px) := rfl

/-- One column toggles one pixel, if its bit is set (R161). -/
theorem Canvas.drawColumn_pixel (row : Byte) (x0 y : Nat) (c : Canvas) (col : Nat) (qy : Fin 32) (qx : Fin 64) :
    (c.drawColumn row x0 y col).fb.pixel qy qx =
      if qy.val = y % 32 ∧ qx.val = (x0 + col) % 64 ∧ row.getLsbD (7 - col) = true then !c.fb.pixel qy qx
      else c.fb.pixel qy qx := by
  unfold Canvas.drawColumn
  split
  · simp_all [Fin.ext_iff, Fin.ofNat]
  · simp_all

/-- One column collides when its bit and its pixel are set (R161). -/
theorem Canvas.drawColumn_coll (row : Byte) (x0 y : Nat) (c : Canvas) (col : Nat) :
    (c.drawColumn row x0 y col).coll = true ↔
      c.coll = true ∨ row.getLsbD (7 - col) = true ∧ c.fb.pixel (Fin.ofNat 32 y) (Fin.ofNat 64 (x0 + col)) = true := by
  unfold Canvas.drawColumn
  split <;> simp_all

/-- Columns that are distinct modulo 64 toggle distinct pixels (R162 (c)). -/
theorem Canvas.drawColumns_pixel (row : Byte) (x0 y : Nat) (cols : List Nat) (c : Canvas) (qy : Fin 32) (qx : Fin 64)
    (hn : cols.Nodup) (hb : ∀ k ∈ cols, k < 64) :
    (cols.foldl (Canvas.drawColumn row x0 y) c).fb.pixel qy qx = true ↔
      (c.fb.pixel qy qx = true ↔
        ¬ (qy.val = y % 32 ∧ ∃ k ∈ cols, qx.val = (x0 + k) % 64 ∧ row.getLsbD (7 - k) = true)) := by
  induction cols generalizing c with
  | nil => simp
  | cons k cols ih =>
    obtain ⟨hk, hn⟩ := List.nodup_cons.1 hn
    rw [List.foldl_cons, ih _ hn (fun j hj => hb j (.tail _ hj)), Canvas.drawColumn_pixel]
    have hk64 := hb k (.head _)
    by_cases hy : qy.val = y % 32
    · by_cases hx : qx.val = (x0 + k) % 64
      · have none : ¬ ∃ j ∈ cols, qx.val = (x0 + j) % 64 ∧ row.getLsbD (7 - j) = true := by
          rintro ⟨j, hj, e, _⟩
          have := hb j (.tail _ hj)
          exact hk (by rwa [show k = j by omega])
        by_cases hr : row.getLsbD (7 - k) = true
        · have now : qy.val = y % 32 ∧ ∃ j ∈ k :: cols, qx.val = (x0 + j) % 64 ∧ row.getLsbD (7 - j) = true :=
            ⟨hy, k, .head _, hx, hr⟩
          have later : ¬ (qy.val = y % 32 ∧ ∃ j ∈ cols, qx.val = (x0 + j) % 64 ∧ row.getLsbD (7 - j) = true) :=
            fun h => none h.2
          rw [if_pos ⟨hy, hx, hr⟩, iff_true_intro now, iff_false_intro later]
          simp
        · simp [hy, hr]
      · simp [hy, hx]
    · simp [hy]

/-- Columns that are distinct modulo 64 see the pixels as they were before the first (R162 (c)). -/
theorem Canvas.drawColumns_coll (row : Byte) (x0 y : Nat) (cols : List Nat) (c : Canvas)
    (hn : cols.Nodup) (hb : ∀ k ∈ cols, k < 64) :
    (cols.foldl (Canvas.drawColumn row x0 y) c).coll = true ↔
      c.coll = true ∨ ∃ k ∈ cols, row.getLsbD (7 - k) = true ∧
        c.fb.pixel (Fin.ofNat 32 y) (Fin.ofNat 64 (x0 + k)) = true := by
  induction cols generalizing c with
  | nil => simp
  | cons k cols ih =>
    obtain ⟨hk, hn⟩ := List.nodup_cons.1 hn
    rw [List.foldl_cons, ih _ hn (fun j hj => hb j (.tail _ hj)), Canvas.drawColumn_coll]
    have h64 := hb k (.head _)
    have same : ∀ j ∈ cols, (c.drawColumn row x0 y k).fb.pixel (Fin.ofNat 32 y) (Fin.ofNat 64 (x0 + j)) =
        c.fb.pixel (Fin.ofNat 32 y) (Fin.ofNat 64 (x0 + j)) := by
      intro j hj
      rw [Canvas.drawColumn_pixel, if_neg]
      rintro ⟨_, e, _⟩
      simp [Fin.ofNat] at e
      have := hb j (.tail _ hj)
      exact hk (by rwa [show k = j by omega])
    constructor
    · rintro ((h | h) | ⟨j, hj, hr, hp⟩)
      · exact .inl h
      · exact .inr ⟨k, .head _, h⟩
      · exact .inr ⟨j, .tail _ hj, hr, by rwa [same j hj] at hp⟩
    · rintro (h | ⟨j, hj, hr, hp⟩)
      · exact .inl (.inl h)
      · rcases List.mem_cons.1 hj with rfl | hj
        · exact .inl (.inr ⟨hr, hp⟩)
        · exact .inr ⟨j, hj, hr, by rwa [same j hj]⟩

/-- Everything one sprite row does to the pixels: XOR with the pixels under its set bits (R161, R162). -/
theorem Canvas.drawRow_pixel (c : Canvas) (row : Byte) (x0 y : Nat) (qy : Fin 32) (qx : Fin 64) :
    (c.drawRow row x0 y).fb.pixel qy qx = true ↔
      (c.fb.pixel qy qx = true ↔
        ¬ (qy.val = y % 32 ∧ ∃ k < 8, qx.val = (x0 + k) % 64 ∧ row.getLsbD (7 - k) = true)) := by
  rw [Canvas.drawRow, Canvas.drawColumns_pixel _ _ _ _ _ _ _ (by decide) (by decide)]
  have : ∀ k, k ∈ [0, 1, 2, 3, 4, 5, 6, 7] ↔ k < 8 := by simp; omega
  simp only [this]

/-- When one sprite row collides (R161, R162). -/
theorem Canvas.drawRow_coll (c : Canvas) (row : Byte) (x0 y : Nat) :
    (c.drawRow row x0 y).coll = true ↔
      c.coll = true ∨ ∃ k < 8, row.getLsbD (7 - k) = true ∧
        c.fb.pixel (Fin.ofNat 32 y) (Fin.ofNat 64 (x0 + k)) = true := by
  rw [Canvas.drawRow, Canvas.drawColumns_coll _ _ _ _ _ (by decide) (by decide)]
  have : ∀ k, k ∈ [0, 1, 2, 3, 4, 5, 6, 7] ↔ k < 8 := by simp; omega
  simp only [this]

end Sys2Proof.Machine
end

