-- ==== Sys2Proof/Laws/State.lean ====
section
/-! SUPPORT. What each update of the state leaves in each field, and what the accessors read after it, so that no proof
unfolds a record update. -/

namespace Sys2Proof.Machine

variable (s : State)

/-! ### setReg -/

@[simp] theorem State.setReg_v (x : Reg) (u : Byte) : (s.setReg x u).v = s.v.set x u := rfl
@[simp] theorem State.setReg_index (x : Reg) (u : Byte) : (s.setReg x u).index = s.index := rfl
@[simp] theorem State.setReg_pc (x : Reg) (u : Byte) : (s.setReg x u).pc = s.pc := rfl
@[simp] theorem State.setReg_stack (x : Reg) (u : Byte) : (s.setReg x u).stack = s.stack := rfl
@[simp] theorem State.setReg_sp (x : Reg) (u : Byte) : (s.setReg x u).sp = s.sp := rfl
@[simp] theorem State.setReg_dt (x : Reg) (u : Byte) : (s.setReg x u).dt = s.dt := rfl
@[simp] theorem State.setReg_st (x : Reg) (u : Byte) : (s.setReg x u).st = s.st := rfl
@[simp] theorem State.setReg_keys (x : Reg) (u : Byte) : (s.setReg x u).keys = s.keys := rfl
@[simp] theorem State.setReg_fb (x : Reg) (u : Byte) : (s.setReg x u).fb = s.fb := rfl
@[simp] theorem State.setReg_mem (x : Reg) (u : Byte) : (s.setReg x u).mem = s.mem := rfl
@[simp] theorem State.setReg_opc (x : Reg) (u : Byte) : (s.setReg x u).opc = s.opc := rfl
@[simp] theorem State.setReg_wait (x : Reg) (u : Byte) : (s.setReg x u).wait = s.wait := rfl
@[simp] theorem State.setReg_draws (x : Reg) (u : Byte) : (s.setReg x u).draws = s.draws := rfl

@[simp] theorem State.setReg_slot (x : Reg) (u : Byte) (k : Nat) : (s.setReg x u).slot k = s.slot k := rfl
@[simp] theorem State.setReg_key (x : Reg) (u : Byte) (k : Fin 16) : (s.setReg x u).key k = s.key k := rfl

/-! ### commit -/

@[simp] theorem State.commit_v (p : Word) : (s.commit p).v = s.v := rfl
@[simp] theorem State.commit_index (p : Word) : (s.commit p).index = s.index := rfl
@[simp] theorem State.commit_pc (p : Word) : (s.commit p).pc = p := rfl
@[simp] theorem State.commit_stack (p : Word) : (s.commit p).stack = s.stack := rfl
@[simp] theorem State.commit_sp (p : Word) : (s.commit p).sp = s.sp := rfl
@[simp] theorem State.commit_dt (p : Word) : (s.commit p).dt = s.dt := rfl
@[simp] theorem State.commit_st (p : Word) : (s.commit p).st = s.st := rfl
@[simp] theorem State.commit_keys (p : Word) : (s.commit p).keys = s.keys := rfl
@[simp] theorem State.commit_fb (p : Word) : (s.commit p).fb = s.fb := rfl
@[simp] theorem State.commit_mem (p : Word) : (s.commit p).mem = s.mem := rfl
@[simp] theorem State.commit_opc (p : Word) : (s.commit p).opc = s.opc := rfl
@[simp] theorem State.commit_wait (p : Word) : (s.commit p).wait = false := rfl
@[simp] theorem State.commit_draws (p : Word) : (s.commit p).draws = s.draws := rfl

@[simp] theorem State.commit_reg (p : Word) (r : Reg) : (s.commit p).reg r = s.reg r := rfl
@[simp] theorem State.commit_slot (p : Word) (k : Nat) : (s.commit p).slot k = s.slot k := rfl
@[simp] theorem State.commit_key (p : Word) (k : Fin 16) : (s.commit p).key k = s.key k := rfl

/-! ### skipIf -/

@[simp] theorem State.skipIf_v (c : Bool) : (s.skipIf c).v = s.v := rfl
@[simp] theorem State.skipIf_index (c : Bool) : (s.skipIf c).index = s.index := rfl
@[simp] theorem State.skipIf_pc (c : Bool) : (s.skipIf c).pc = if c then s.npc + 2 else s.npc := rfl
@[simp] theorem State.skipIf_stack (c : Bool) : (s.skipIf c).stack = s.stack := rfl
@[simp] theorem State.skipIf_sp (c : Bool) : (s.skipIf c).sp = s.sp := rfl
@[simp] theorem State.skipIf_dt (c : Bool) : (s.skipIf c).dt = s.dt := rfl
@[simp] theorem State.skipIf_st (c : Bool) : (s.skipIf c).st = s.st := rfl
@[simp] theorem State.skipIf_keys (c : Bool) : (s.skipIf c).keys = s.keys := rfl
@[simp] theorem State.skipIf_fb (c : Bool) : (s.skipIf c).fb = s.fb := rfl
@[simp] theorem State.skipIf_mem (c : Bool) : (s.skipIf c).mem = s.mem := rfl
@[simp] theorem State.skipIf_opc (c : Bool) : (s.skipIf c).opc = s.opc := rfl
@[simp] theorem State.skipIf_wait (c : Bool) : (s.skipIf c).wait = false := rfl
@[simp] theorem State.skipIf_draws (c : Bool) : (s.skipIf c).draws = s.draws := rfl

@[simp] theorem State.skipIf_reg (c : Bool) (r : Reg) : (s.skipIf c).reg r = s.reg r := rfl
@[simp] theorem State.skipIf_slot (c : Bool) (k : Nat) : (s.skipIf c).slot k = s.slot k := rfl
@[simp] theorem State.skipIf_key (c : Bool) (k : Fin 16) : (s.skipIf c).key k = s.key k := rfl

/-! ### awaitKey -/

@[simp] theorem State.awaitKey_v : (s.awaitKey).v = s.v := rfl
@[simp] theorem State.awaitKey_index : (s.awaitKey).index = s.index := rfl
@[simp] theorem State.awaitKey_pc : (s.awaitKey).pc = s.pc := rfl
@[simp] theorem State.awaitKey_stack : (s.awaitKey).stack = s.stack := rfl
@[simp] theorem State.awaitKey_sp : (s.awaitKey).sp = s.sp := rfl
@[simp] theorem State.awaitKey_dt : (s.awaitKey).dt = s.dt := rfl
@[simp] theorem State.awaitKey_st : (s.awaitKey).st = s.st := rfl
@[simp] theorem State.awaitKey_keys : (s.awaitKey).keys = s.keys := rfl
@[simp] theorem State.awaitKey_fb : (s.awaitKey).fb = s.fb := rfl
@[simp] theorem State.awaitKey_mem : (s.awaitKey).mem = s.mem := rfl
@[simp] theorem State.awaitKey_opc : (s.awaitKey).opc = s.opc := rfl
@[simp] theorem State.awaitKey_wait : (s.awaitKey).wait = true := rfl
@[simp] theorem State.awaitKey_draws : (s.awaitKey).draws = s.draws := rfl

@[simp] theorem State.awaitKey_reg (r : Reg) : (s.awaitKey).reg r = s.reg r := rfl
@[simp] theorem State.awaitKey_slot (k : Nat) : (s.awaitKey).slot k = s.slot k := rfl
@[simp] theorem State.awaitKey_key (k : Fin 16) : (s.awaitKey).key k = s.key k := rfl

/-! ### push -/

@[simp] theorem State.push_v (u : Word) : (s.push u).v = s.v := rfl
@[simp] theorem State.push_index (u : Word) : (s.push u).index = s.index := rfl
@[simp] theorem State.push_pc (u : Word) : (s.push u).pc = s.pc := rfl
@[simp] theorem State.push_stack (u : Word) : (s.push u).stack = s.stack.setIfInBounds s.sp.toNat u := rfl
@[simp] theorem State.push_sp (u : Word) : (s.push u).sp = s.sp + 1 := rfl
@[simp] theorem State.push_dt (u : Word) : (s.push u).dt = s.dt := rfl
@[simp] theorem State.push_st (u : Word) : (s.push u).st = s.st := rfl
@[simp] theorem State.push_keys (u : Word) : (s.push u).keys = s.keys := rfl
@[simp] theorem State.push_fb (u : Word) : (s.push u).fb = s.fb := rfl
@[simp] theorem State.push_mem (u : Word) : (s.push u).mem = s.mem := rfl
@[simp] theorem State.push_opc (u : Word) : (s.push u).opc = s.opc := rfl
@[simp] theorem State.push_wait (u : Word) : (s.push u).wait = s.wait := rfl
@[simp] theorem State.push_draws (u : Word) : (s.push u).draws = s.draws := rfl

@[simp] theorem State.push_reg (u : Word) (r : Reg) : (s.push u).reg r = s.reg r := rfl
@[simp] theorem State.push_key (u : Word) (k : Fin 16) : (s.push u).key k = s.key k := rfl

/-! ### pop -/

@[simp] theorem State.pop_v : (s.pop).v = s.v := rfl
@[simp] theorem State.pop_index : (s.pop).index = s.index := rfl
@[simp] theorem State.pop_pc : (s.pop).pc = s.pc := rfl
@[simp] theorem State.pop_stack : (s.pop).stack = s.stack := rfl
@[simp] theorem State.pop_sp : (s.pop).sp = s.sp - 1 := rfl
@[simp] theorem State.pop_dt : (s.pop).dt = s.dt := rfl
@[simp] theorem State.pop_st : (s.pop).st = s.st := rfl
@[simp] theorem State.pop_keys : (s.pop).keys = s.keys := rfl
@[simp] theorem State.pop_fb : (s.pop).fb = s.fb := rfl
@[simp] theorem State.pop_mem : (s.pop).mem = s.mem := rfl
@[simp] theorem State.pop_opc : (s.pop).opc = s.opc := rfl
@[simp] theorem State.pop_wait : (s.pop).wait = s.wait := rfl
@[simp] theorem State.pop_draws : (s.pop).draws = s.draws := rfl

@[simp] theorem State.pop_reg (r : Reg) : (s.pop).reg r = s.reg r := rfl
@[simp] theorem State.pop_slot (k : Nat) : (s.pop).slot k = s.slot k := rfl
@[simp] theorem State.pop_key (k : Fin 16) : (s.pop).key k = s.key k := rfl

/-! ### setIndex -/

@[simp] theorem State.setIndex_v (u : Word) : (s.setIndex u).v = s.v := rfl
@[simp] theorem State.setIndex_index (u : Word) : (s.setIndex u).index = u := rfl
@[simp] theorem State.setIndex_pc (u : Word) : (s.setIndex u).pc = s.pc := rfl
@[simp] theorem State.setIndex_stack (u : Word) : (s.setIndex u).stack = s.stack := rfl
@[simp] theorem State.setIndex_sp (u : Word) : (s.setIndex u).sp = s.sp := rfl
@[simp] theorem State.setIndex_dt (u : Word) : (s.setIndex u).dt = s.dt := rfl
@[simp] theorem State.setIndex_st (u : Word) : (s.setIndex u).st = s.st := rfl
@[simp] theorem State.setIndex_keys (u : Word) : (s.setIndex u).keys = s.keys := rfl
@[simp] theorem State.setIndex_fb (u : Word) : (s.setIndex u).fb = s.fb := rfl
@[simp] theorem State.setIndex_mem (u : Word) : (s.setIndex u).mem = s.mem := rfl
@[simp] theorem State.setIndex_opc (u : Word) : (s.setIndex u).opc = s.opc := rfl
@[simp] theorem State.setIndex_wait (u : Word) : (s.setIndex u).wait = s.wait := rfl
@[simp] theorem State.setIndex_draws (u : Word) : (s.setIndex u).draws = s.draws := rfl

@[simp] theorem State.setIndex_reg (u : Word) (r : Reg) : (s.setIndex u).reg r = s.reg r := rfl
@[simp] theorem State.setIndex_slot (u : Word) (k : Nat) : (s.setIndex u).slot k = s.slot k := rfl
@[simp] theorem State.setIndex_key (u : Word) (k : Fin 16) : (s.setIndex u).key k = s.key k := rfl

/-! ### setDt -/

@[simp] theorem State.setDt_v (u : Byte) : (s.setDt u).v = s.v := rfl
@[simp] theorem State.setDt_index (u : Byte) : (s.setDt u).index = s.index := rfl
@[simp] theorem State.setDt_pc (u : Byte) : (s.setDt u).pc = s.pc := rfl
@[simp] theorem State.setDt_stack (u : Byte) : (s.setDt u).stack = s.stack := rfl
@[simp] theorem State.setDt_sp (u : Byte) : (s.setDt u).sp = s.sp := rfl
@[simp] theorem State.setDt_dt (u : Byte) : (s.setDt u).dt = u := rfl
@[simp] theorem State.setDt_st (u : Byte) : (s.setDt u).st = s.st := rfl
@[simp] theorem State.setDt_keys (u : Byte) : (s.setDt u).keys = s.keys := rfl
@[simp] theorem State.setDt_fb (u : Byte) : (s.setDt u).fb = s.fb := rfl
@[simp] theorem State.setDt_mem (u : Byte) : (s.setDt u).mem = s.mem := rfl
@[simp] theorem State.setDt_opc (u : Byte) : (s.setDt u).opc = s.opc := rfl
@[simp] theorem State.setDt_wait (u : Byte) : (s.setDt u).wait = s.wait := rfl
@[simp] theorem State.setDt_draws (u : Byte) : (s.setDt u).draws = s.draws := rfl

@[simp] theorem State.setDt_reg (u : Byte) (r : Reg) : (s.setDt u).reg r = s.reg r := rfl
@[simp] theorem State.setDt_slot (u : Byte) (k : Nat) : (s.setDt u).slot k = s.slot k := rfl
@[simp] theorem State.setDt_key (u : Byte) (k : Fin 16) : (s.setDt u).key k = s.key k := rfl

/-! ### setSt -/

@[simp] theorem State.setSt_v (u : Byte) : (s.setSt u).v = s.v := rfl
@[simp] theorem State.setSt_index (u : Byte) : (s.setSt u).index = s.index := rfl
@[simp] theorem State.setSt_pc (u : Byte) : (s.setSt u).pc = s.pc := rfl
@[simp] theorem State.setSt_stack (u : Byte) : (s.setSt u).stack = s.stack := rfl
@[simp] theorem State.setSt_sp (u : Byte) : (s.setSt u).sp = s.sp := rfl
@[simp] theorem State.setSt_dt (u : Byte) : (s.setSt u).dt = s.dt := rfl
@[simp] theorem State.setSt_st (u : Byte) : (s.setSt u).st = u := rfl
@[simp] theorem State.setSt_keys (u : Byte) : (s.setSt u).keys = s.keys := rfl
@[simp] theorem State.setSt_fb (u : Byte) : (s.setSt u).fb = s.fb := rfl
@[simp] theorem State.setSt_mem (u : Byte) : (s.setSt u).mem = s.mem := rfl
@[simp] theorem State.setSt_opc (u : Byte) : (s.setSt u).opc = s.opc := rfl
@[simp] theorem State.setSt_wait (u : Byte) : (s.setSt u).wait = s.wait := rfl
@[simp] theorem State.setSt_draws (u : Byte) : (s.setSt u).draws = s.draws := rfl

@[simp] theorem State.setSt_reg (u : Byte) (r : Reg) : (s.setSt u).reg r = s.reg r := rfl
@[simp] theorem State.setSt_slot (u : Byte) (k : Nat) : (s.setSt u).slot k = s.slot k := rfl
@[simp] theorem State.setSt_key (u : Byte) (k : Fin 16) : (s.setSt u).key k = s.key k := rfl

/-! ### setMem -/

@[simp] theorem State.setMem_v (m : Memory) : (s.setMem m).v = s.v := rfl
@[simp] theorem State.setMem_index (m : Memory) : (s.setMem m).index = s.index := rfl
@[simp] theorem State.setMem_pc (m : Memory) : (s.setMem m).pc = s.pc := rfl
@[simp] theorem State.setMem_stack (m : Memory) : (s.setMem m).stack = s.stack := rfl
@[simp] theorem State.setMem_sp (m : Memory) : (s.setMem m).sp = s.sp := rfl
@[simp] theorem State.setMem_dt (m : Memory) : (s.setMem m).dt = s.dt := rfl
@[simp] theorem State.setMem_st (m : Memory) : (s.setMem m).st = s.st := rfl
@[simp] theorem State.setMem_keys (m : Memory) : (s.setMem m).keys = s.keys := rfl
@[simp] theorem State.setMem_fb (m : Memory) : (s.setMem m).fb = s.fb := rfl
@[simp] theorem State.setMem_mem (m : Memory) : (s.setMem m).mem = m := rfl
@[simp] theorem State.setMem_opc (m : Memory) : (s.setMem m).opc = s.opc := rfl
@[simp] theorem State.setMem_wait (m : Memory) : (s.setMem m).wait = s.wait := rfl
@[simp] theorem State.setMem_draws (m : Memory) : (s.setMem m).draws = s.draws := rfl

@[simp] theorem State.setMem_reg (m : Memory) (r : Reg) : (s.setMem m).reg r = s.reg r := rfl
@[simp] theorem State.setMem_slot (m : Memory) (k : Nat) : (s.setMem m).slot k = s.slot k := rfl
@[simp] theorem State.setMem_key (m : Memory) (k : Fin 16) : (s.setMem m).key k = s.key k := rfl

/-! ### setFb -/

@[simp] theorem State.setFb_v (f : Framebuffer) : (s.setFb f).v = s.v := rfl
@[simp] theorem State.setFb_index (f : Framebuffer) : (s.setFb f).index = s.index := rfl
@[simp] theorem State.setFb_pc (f : Framebuffer) : (s.setFb f).pc = s.pc := rfl
@[simp] theorem State.setFb_stack (f : Framebuffer) : (s.setFb f).stack = s.stack := rfl
@[simp] theorem State.setFb_sp (f : Framebuffer) : (s.setFb f).sp = s.sp := rfl
@[simp] theorem State.setFb_dt (f : Framebuffer) : (s.setFb f).dt = s.dt := rfl
@[simp] theorem State.setFb_st (f : Framebuffer) : (s.setFb f).st = s.st := rfl
@[simp] theorem State.setFb_keys (f : Framebuffer) : (s.setFb f).keys = s.keys := rfl
@[simp] theorem State.setFb_fb (f : Framebuffer) : (s.setFb f).fb = f := rfl
@[simp] theorem State.setFb_mem (f : Framebuffer) : (s.setFb f).mem = s.mem := rfl
@[simp] theorem State.setFb_opc (f : Framebuffer) : (s.setFb f).opc = s.opc := rfl
@[simp] theorem State.setFb_wait (f : Framebuffer) : (s.setFb f).wait = s.wait := rfl
@[simp] theorem State.setFb_draws (f : Framebuffer) : (s.setFb f).draws = s.draws := rfl

@[simp] theorem State.setFb_reg (f : Framebuffer) (r : Reg) : (s.setFb f).reg r = s.reg r := rfl
@[simp] theorem State.setFb_slot (f : Framebuffer) (k : Nat) : (s.setFb f).slot k = s.slot k := rfl
@[simp] theorem State.setFb_key (f : Framebuffer) (k : Fin 16) : (s.setFb f).key k = s.key k := rfl

/-! ### drawn -/

@[simp] theorem State.drawn_v : (s.drawn).v = s.v := rfl
@[simp] theorem State.drawn_index : (s.drawn).index = s.index := rfl
@[simp] theorem State.drawn_pc : (s.drawn).pc = s.pc := rfl
@[simp] theorem State.drawn_stack : (s.drawn).stack = s.stack := rfl
@[simp] theorem State.drawn_sp : (s.drawn).sp = s.sp := rfl
@[simp] theorem State.drawn_dt : (s.drawn).dt = s.dt := rfl
@[simp] theorem State.drawn_st : (s.drawn).st = s.st := rfl
@[simp] theorem State.drawn_keys : (s.drawn).keys = s.keys := rfl
@[simp] theorem State.drawn_fb : (s.drawn).fb = s.fb := rfl
@[simp] theorem State.drawn_mem : (s.drawn).mem = s.mem := rfl
@[simp] theorem State.drawn_opc : (s.drawn).opc = s.opc := rfl
@[simp] theorem State.drawn_wait : (s.drawn).wait = s.wait := rfl
@[simp] theorem State.drawn_draws : (s.drawn).draws = s.draws + 1 := rfl

@[simp] theorem State.drawn_reg (r : Reg) : (s.drawn).reg r = s.reg r := rfl
@[simp] theorem State.drawn_slot (k : Nat) : (s.drawn).slot k = s.slot k := rfl
@[simp] theorem State.drawn_key (k : Fin 16) : (s.drawn).key k = s.key k := rfl

/-! ### latch -/

@[simp] theorem State.latch_v (w : Word) : (s.latch w).v = s.v := rfl
@[simp] theorem State.latch_index (w : Word) : (s.latch w).index = s.index := rfl
@[simp] theorem State.latch_pc (w : Word) : (s.latch w).pc = s.pc := rfl
@[simp] theorem State.latch_stack (w : Word) : (s.latch w).stack = s.stack := rfl
@[simp] theorem State.latch_sp (w : Word) : (s.latch w).sp = s.sp := rfl
@[simp] theorem State.latch_dt (w : Word) : (s.latch w).dt = s.dt := rfl
@[simp] theorem State.latch_st (w : Word) : (s.latch w).st = s.st := rfl
@[simp] theorem State.latch_keys (w : Word) : (s.latch w).keys = s.keys := rfl
@[simp] theorem State.latch_fb (w : Word) : (s.latch w).fb = s.fb := rfl
@[simp] theorem State.latch_mem (w : Word) : (s.latch w).mem = s.mem := rfl
@[simp] theorem State.latch_opc (w : Word) : (s.latch w).opc = w := rfl
@[simp] theorem State.latch_wait (w : Word) : (s.latch w).wait = s.wait := rfl
@[simp] theorem State.latch_draws (w : Word) : (s.latch w).draws = s.draws := rfl

@[simp] theorem State.latch_reg (w : Word) (r : Reg) : (s.latch w).reg r = s.reg r := rfl
@[simp] theorem State.latch_slot (w : Word) (k : Nat) : (s.latch w).slot k = s.slot k := rfl
@[simp] theorem State.latch_key (w : Word) (k : Fin 16) : (s.latch w).key k = s.key k := rfl

/-! ### setWithFlag -/

@[simp] theorem State.setWithFlag_v (x : Reg) (u : Byte) (b : Bool) : (s.setWithFlag x u b).v = (s.v.set x u).set Reg.vf (flagByte b) := rfl
@[simp] theorem State.setWithFlag_index (x : Reg) (u : Byte) (b : Bool) : (s.setWithFlag x u b).index = s.index := rfl
@[simp] theorem State.setWithFlag_pc (x : Reg) (u : Byte) (b : Bool) : (s.setWithFlag x u b).pc = s.pc := rfl
@[simp] theorem State.setWithFlag_stack (x : Reg) (u : Byte) (b : Bool) : (s.setWithFlag x u b).stack = s.stack := rfl
@[simp] theorem State.setWithFlag_sp (x : Reg) (u : Byte) (b : Bool) : (s.setWithFlag x u b).sp = s.sp := rfl
@[simp] theorem State.setWithFlag_dt (x : Reg) (u : Byte) (b : Bool) : (s.setWithFlag x u b).dt = s.dt := rfl
@[simp] theorem State.setWithFlag_st (x : Reg) (u : Byte) (b : Bool) : (s.setWithFlag x u b).st = s.st := rfl
@[simp] theorem State.setWithFlag_keys (x : Reg) (u : Byte) (b : Bool) : (s.setWithFlag x u b).keys = s.keys := rfl
@[simp] theorem State.setWithFlag_fb (x : Reg) (u : Byte) (b : Bool) : (s.setWithFlag x u b).fb = s.fb := rfl
@[simp] theorem State.setWithFlag_mem (x : Reg) (u : Byte) (b : Bool) : (s.setWithFlag x u b).mem = s.mem := rfl
@[simp] theorem State.setWithFlag_opc (x : Reg) (u : Byte) (b : Bool) : (s.setWithFlag x u b).opc = s.opc := rfl
@[simp] theorem State.setWithFlag_wait (x : Reg) (u : Byte) (b : Bool) : (s.setWithFlag x u b).wait = s.wait := rfl
@[simp] theorem State.setWithFlag_draws (x : Reg) (u : Byte) (b : Bool) : (s.setWithFlag x u b).draws = s.draws := rfl

@[simp] theorem State.setWithFlag_slot (x : Reg) (u : Byte) (b : Bool) (k : Nat) : (s.setWithFlag x u b).slot k = s.slot k := rfl
@[simp] theorem State.setWithFlag_key (x : Reg) (u : Byte) (b : Bool) (k : Fin 16) : (s.setWithFlag x u b).key k = s.key k := rfl

/-! ### loadRegs -/

@[simp] theorem State.loadRegs_v (x : Reg) : (s.loadRegs x).v = Vector.ofFn fun k => if k.val ≤ x.val then s.mem.read (s.ea k.val) else s.v[k] := rfl
@[simp] theorem State.loadRegs_index (x : Reg) : (s.loadRegs x).index = s.index := by unfold State.loadRegs; rfl
@[simp] theorem State.loadRegs_pc (x : Reg) : (s.loadRegs x).pc = s.pc := by unfold State.loadRegs; rfl
@[simp] theorem State.loadRegs_stack (x : Reg) : (s.loadRegs x).stack = s.stack := by unfold State.loadRegs; rfl
@[simp] theorem State.loadRegs_sp (x : Reg) : (s.loadRegs x).sp = s.sp := by unfold State.loadRegs; rfl
@[simp] theorem State.loadRegs_dt (x : Reg) : (s.loadRegs x).dt = s.dt := by unfold State.loadRegs; rfl
@[simp] theorem State.loadRegs_st (x : Reg) : (s.loadRegs x).st = s.st := by unfold State.loadRegs; rfl
@[simp] theorem State.loadRegs_keys (x : Reg) : (s.loadRegs x).keys = s.keys := by unfold State.loadRegs; rfl
@[simp] theorem State.loadRegs_fb (x : Reg) : (s.loadRegs x).fb = s.fb := by unfold State.loadRegs; rfl
@[simp] theorem State.loadRegs_mem (x : Reg) : (s.loadRegs x).mem = s.mem := by unfold State.loadRegs; rfl
@[simp] theorem State.loadRegs_opc (x : Reg) : (s.loadRegs x).opc = s.opc := by unfold State.loadRegs; rfl
@[simp] theorem State.loadRegs_wait (x : Reg) : (s.loadRegs x).wait = s.wait := by unfold State.loadRegs; rfl
@[simp] theorem State.loadRegs_draws (x : Reg) : (s.loadRegs x).draws = s.draws := by unfold State.loadRegs; rfl

@[simp] theorem State.loadRegs_slot (x : Reg) (k : Nat) : (s.loadRegs x).slot k = s.slot k := by unfold State.loadRegs; rfl
@[simp] theorem State.loadRegs_key (x : Reg) (k : Fin 16) : (s.loadRegs x).key k = s.key k := by unfold State.loadRegs; rfl

/-! ### Accessors after the updates they see -/

/-- A register after a register write (R20). -/
@[simp] theorem State.reg_setReg (x : Reg) (u : Byte) (r : Reg) :
    (s.setReg x u).reg r = if r = x then u else s.reg r := by
  simp only [State.reg, State.setReg, Fin.getElem_fin, Vector.getElem_set]
  by_cases h : r = x
  · simp [h]
  · have : x.val ≠ r.val := fun e => h (Fin.ext e.symm)
    simp [h, this]

/-- A register after a result and its flag (R106): the flag remains in `VF`. -/
@[simp] theorem State.reg_setWithFlag (x : Reg) (u : Byte) (b : Bool) (r : Reg) :
    (s.setWithFlag x u b).reg r = if r = Reg.vf then flagByte b else if r = x then u else s.reg r := by
  simp [State.setWithFlag]

/-- A register after a register list is loaded (R145). -/
@[simp] theorem State.reg_loadRegs (x r : Reg) :
    (s.loadRegs x).reg r = if r.val ≤ x.val then s.mem.read (s.ea r.val) else s.reg r := by
  simp [State.reg, State.loadRegs]

/-- A slot after a push on a stack that is not full (R127). -/
theorem State.slot_push (u : Word) (k : Nat) (h : s.sp.toNat < 16) :
    (s.push u).slot k = if k = s.sp.toNat then u else s.slot k := by
  simp only [State.slot, State.push, Vector.getElem?_setIfInBounds]
  by_cases hk : k = s.sp.toNat
  · simp [hk, h]
  · simp [hk, Ne.symm hk]

end Sys2Proof.Machine
end

