-- ==== Sys2Proof/Laws/Events.lean ====
section
/-! SUPPORT. What the events that write the keypad, the timers and a program leave in each field. -/

namespace Sys2Proof.Machine

variable (s : State)

/-! ### KEYS (R184) -/

@[simp] theorem Events.keys_v (k : BitVec 16) : (Events.keys k s).v = s.v := by unfold Events.keys; rfl
@[simp] theorem Events.keys_index (k : BitVec 16) : (Events.keys k s).index = s.index := by unfold Events.keys; rfl
@[simp] theorem Events.keys_pc (k : BitVec 16) : (Events.keys k s).pc = s.pc := by unfold Events.keys; rfl
@[simp] theorem Events.keys_stack (k : BitVec 16) : (Events.keys k s).stack = s.stack := by unfold Events.keys; rfl
@[simp] theorem Events.keys_sp (k : BitVec 16) : (Events.keys k s).sp = s.sp := by unfold Events.keys; rfl
@[simp] theorem Events.keys_dt (k : BitVec 16) : (Events.keys k s).dt = s.dt := by unfold Events.keys; rfl
@[simp] theorem Events.keys_st (k : BitVec 16) : (Events.keys k s).st = s.st := by unfold Events.keys; rfl
@[simp] theorem Events.keys_fb (k : BitVec 16) : (Events.keys k s).fb = s.fb := by unfold Events.keys; rfl
@[simp] theorem Events.keys_mem (k : BitVec 16) : (Events.keys k s).mem = s.mem := by unfold Events.keys; rfl
@[simp] theorem Events.keys_opc (k : BitVec 16) : (Events.keys k s).opc = s.opc := by unfold Events.keys; rfl
@[simp] theorem Events.keys_wait (k : BitVec 16) : (Events.keys k s).wait = s.wait := by unfold Events.keys; rfl
@[simp] theorem Events.keys_draws (k : BitVec 16) : (Events.keys k s).draws = s.draws := by unfold Events.keys; rfl

@[simp] theorem Events.keys_reg (k : BitVec 16) (r : Reg) : (Events.keys k s).reg r = s.reg r := by
  unfold Events.keys; rfl
@[simp] theorem Events.keys_slot (k : BitVec 16) (j : Nat) : (Events.keys k s).slot j = s.slot j := by
  unfold Events.keys; rfl
@[simp] theorem Events.keys_key (k : BitVec 16) (j : Fin 16) : (Events.keys k s).key j = k.getLsbD j.val := by
  simp [State.key, Events.keys]

/-! ### TICK (R183) -/

@[simp] theorem Events.countDown_toNat : ∀ u : Byte, (Events.countDown u).toNat = u.toNat - 1 := by decide

@[simp] theorem Events.tick_dt : (Events.tick s).dt = Events.countDown s.dt := rfl
@[simp] theorem Events.tick_st : (Events.tick s).st = Events.countDown s.st := rfl

end Sys2Proof.Machine
end

