-- ==== Sys2Proof/Laws/Exec.lean ====
section
/-! SUPPORT. What `exec` is for each instruction, in terms of the shared operations, so that no proof unfolds `exec`. -/

namespace Sys2Proof.Machine

variable (s : State)

theorem exec_cls : exec .cls s =
    .next ((s.setFb Framebuffer.clear).commit s.npc) := rfl

theorem exec_ret : exec .ret s =
    s.withLegalSp (if s.sp = 0 then raise (.stackUnderflow s.pc s.opc) else .next (s.pop.commit s.top)) := rfl

theorem exec_jpNnn (nnn : Addr) : exec (.jpNnn nnn) s =
    .next (s.commit (addrWord nnn)) := rfl

theorem exec_callNnn (nnn : Addr) : exec (.callNnn nnn) s =
    s.withLegalSp (if 16 ≤ s.sp.toNat then raise (.stackOverflow s.pc s.opc)
      else .next ((s.push s.npc).commit (addrWord nnn))) := rfl

theorem exec_seVxKk (x : Reg) (kk : Byte) : exec (.seVxKk x kk) s =
    .next (s.skipIf (s.reg x == kk)) := rfl

theorem exec_sneVxKk (x : Reg) (kk : Byte) : exec (.sneVxKk x kk) s =
    .next (s.skipIf (s.reg x != kk)) := rfl

theorem exec_seVxVy (x y : Reg) : exec (.seVxVy x y) s =
    .next (s.skipIf (s.reg x == s.reg y)) := rfl

theorem exec_ldVxKk (x : Reg) (kk : Byte) : exec (.ldVxKk x kk) s =
    .next ((s.setReg x kk).commit s.npc) := rfl

theorem exec_addVxKk (x : Reg) (kk : Byte) : exec (.addVxKk x kk) s =
    .next ((s.setReg x (s.reg x + kk)).commit s.npc) := rfl

theorem exec_ldVxVy (x y : Reg) : exec (.ldVxVy x y) s =
    .next ((s.setReg x (s.reg y)).commit s.npc) := rfl

theorem exec_orVxVy (x y : Reg) : exec (.orVxVy x y) s =
    .next ((s.setReg x (s.reg x ||| s.reg y)).commit s.npc) := rfl

theorem exec_andVxVy (x y : Reg) : exec (.andVxVy x y) s =
    .next ((s.setReg x (s.reg x &&& s.reg y)).commit s.npc) := rfl

theorem exec_xorVxVy (x y : Reg) : exec (.xorVxVy x y) s =
    .next ((s.setReg x (s.reg x ^^^ s.reg y)).commit s.npc) := rfl

theorem exec_addVxVy (x y : Reg) : exec (.addVxVy x y) s =
    .next ((s.setWithFlag x (s.reg x + s.reg y) (carryOut (s.reg x) (s.reg y))).commit s.npc) := rfl

theorem exec_subVxVy (x y : Reg) : exec (.subVxVy x y) s =
    .next ((s.setWithFlag x (s.reg x - s.reg y) (noBorrow (s.reg x) (s.reg y))).commit s.npc) := rfl

theorem exec_shrVx (x y : Reg) : exec (.shrVx x y) s =
    .next ((s.setWithFlag x (s.reg x >>> 1) (lowBit (s.reg x))).commit s.npc) := rfl

theorem exec_subnVxVy (x y : Reg) : exec (.subnVxVy x y) s =
    .next ((s.setWithFlag x (s.reg y - s.reg x) (noBorrow (s.reg y) (s.reg x))).commit s.npc) := rfl

theorem exec_shlVx (x y : Reg) : exec (.shlVx x y) s =
    .next ((s.setWithFlag x (s.reg x <<< 1) (highBit (s.reg x))).commit s.npc) := rfl

theorem exec_sneVxVy (x y : Reg) : exec (.sneVxVy x y) s =
    .next (s.skipIf (s.reg x != s.reg y)) := rfl

theorem exec_ldINnn (nnn : Addr) : exec (.ldINnn nnn) s =
    .next ((s.setIndex (addrWord nnn)).commit s.npc) := rfl

theorem exec_jpV0Nnn (nnn : Addr) : exec (.jpV0Nnn nnn) s =
    .next (s.commit (addrWord nnn + byteWord (s.reg 0))) := rfl

theorem exec_rndVxKk (x : Reg) (kk : Byte) : exec (.rndVxKk x kk) s =
    .next (((s.setReg x (s.rnd &&& kk)).drawn).commit s.npc) := rfl

theorem exec_drwVxVyN (x y : Reg) (n : Nibble) : exec (.drwVxVyN x y n) s =
    s.access n.toNat (((s.setFb (s.draw x y n).fb).setReg Reg.vf (flagByte (s.draw x y n).coll)).commit s.npc) := rfl

theorem exec_skpVx (x : Reg) : exec (.skpVx x) s =
    s.withKey (s.reg x) fun k => s.skipIf (s.key k) := rfl

theorem exec_sknpVx (x : Reg) : exec (.sknpVx x) s =
    s.withKey (s.reg x) fun k => s.skipIf (!s.key k) := rfl

theorem exec_ldVxDt (x : Reg) : exec (.ldVxDt x) s =
    .next ((s.setReg x s.dt).commit s.npc) := rfl

theorem exec_ldVxK (x : Reg) : exec (.ldVxK x) s =
    (match s.lowestKey with
      | none => .next s.awaitKey
      | some k => .next ((s.setReg x (BitVec.ofNat 8 k.val)).commit s.npc)) := rfl

theorem exec_ldDtVx (x : Reg) : exec (.ldDtVx x) s =
    .next ((s.setDt (s.reg x)).commit s.npc) := rfl

theorem exec_ldStVx (x : Reg) : exec (.ldStVx x) s =
    .next ((s.setSt (s.reg x)).commit s.npc) := rfl

theorem exec_addIVx (x : Reg) : exec (.addIVx x) s =
    .next ((s.setIndex (s.index + byteWord (s.reg x))).commit s.npc) := rfl

theorem exec_ldFVx (x : Reg) : exec (.ldFVx x) s =
    .next ((s.setIndex (glyphAddr (s.reg x))).commit s.npc) := rfl

theorem exec_ldBVx (x : Reg) : exec (.ldBVx x) s =
    s.access 3 ((s.setMem (s.mem.writeList (s.ea 0) (decimalDigits (s.reg x)))).commit s.npc) := rfl

theorem exec_ldMemIVx (x : Reg) : exec (.ldMemIVx x) s =
    s.access (x.val + 1) ((s.setMem (s.mem.writeList (s.ea 0) (s.regsUpTo x))).commit s.npc) := rfl

theorem exec_ldVxMemI (x : Reg) : exec (.ldVxMemI x) s =
    s.access (x.val + 1) ((s.loadRegs x).commit s.npc) := rfl

end Sys2Proof.Machine
end

