-- ==== Sys2Proof/Laws/Memory.lean ====
section
/-! SUPPORT. Memory: a read after a write, lists of bytes, and the canonical form, which every memory operation keeps. -/

namespace Sys2Proof.Machine

theorem Memory.read_erase (m : Memory) (a b : Nat) :
    (m.erase a).read b = if b = a then Memory.initial a else m.read b := by
  induction m with
  | nil => by_cases h : b = a <;> simp [Memory.erase, Memory.read, h]
  | cons c m ih =>
    obtain ⟨d, t⟩ := c
    by_cases hd : d = a
    · by_cases hb : b = a <;> simp_all [Memory.erase, Memory.read]
    · by_cases hb : b = d
      · subst hb; simp [Memory.erase, Memory.read, hd]
      · simp [Memory.erase, Memory.read, hd, hb, ih]

theorem Memory.read_insert (m : Memory) (a b : Nat) (u : Byte) :
    (m.insert a u).read b = if b = a then u else m.read b := by
  induction m with
  | nil => simp [Memory.insert, Memory.read]
  | cons c m ih =>
    obtain ⟨d, t⟩ := c
    by_cases h1 : a < d
    · simp [Memory.insert, Memory.read, h1]
    · by_cases h2 : a = d
      · subst h2
        by_cases hb : b = a <;> simp [Memory.insert, Memory.read, hb]
      · by_cases hb : b = d
        · subst hb; simp [Memory.insert, Memory.read, h1, h2, Ne.symm h2]
        · simp [Memory.insert, Memory.read, h1, h2, hb, ih]

/-- A read gives the byte last written to its address (R55, R62). -/
@[simp] theorem Memory.read_write (m : Memory) (a b : Nat) (u : Byte) :
    (m.write a u).read b = if b = a then u else m.read b := by
  unfold Memory.write
  split
  · rename_i h; simp [Memory.read_erase, h]
  · simp [Memory.read_insert]

@[simp] theorem Memory.length_readList (m : Memory) (a n : Nat) : (m.readList a n).length = n := by
  induction n generalizing a with
  | zero => rfl
  | succ n ih => simp [Memory.readList, ih]

/-- The `k`-th byte of a list read from memory. -/
@[simp] theorem Memory.getElem_readList (m : Memory) (a n k : Nat) (h : k < (m.readList a n).length) :
    (m.readList a n)[k] = m.read (a + k) := by
  induction n generalizing a k with
  | zero => simp [Memory.readList] at h
  | succ n ih =>
    cases k with
    | zero => rfl
    | succ k => simp only [Memory.readList, List.getElem_cons_succ, ih]; congr 1; omega

/-- A read after a list of bytes is stored: inside the list it gives the list's byte, outside it what was there. -/
theorem Memory.read_writeList (m : Memory) (a b : Nat) (us : List Byte) :
    (m.writeList a us).read b =
      if h : a ≤ b ∧ b - a < us.length then us[b - a]'h.2 else m.read b := by
  induction us generalizing m a with
  | nil => simp [Memory.writeList]
  | cons u us ih =>
    rw [Memory.writeList, ih]
    by_cases h1 : a + 1 ≤ b ∧ b - (a + 1) < us.length
    · have h2 : a ≤ b ∧ b - a < (u :: us).length := by simp; omega
      have h3 : b - a = b - (a + 1) + 1 := by omega
      rw [dif_pos h1, dif_pos h2]
      simp [h3]
    · rw [dif_neg h1, Memory.read_write]
      by_cases hb : b = a
      · subst hb; simp
      · rw [if_neg hb, dif_neg]
        simp only [List.length_cons]; omega

/-- A read outside a stored list (the frame of a store). -/
theorem Memory.read_writeList_outside (m : Memory) (a b : Nat) (us : List Byte) (h : b < a ∨ a + us.length ≤ b) :
    (m.writeList a us).read b = m.read b := by
  rw [Memory.read_writeList, dif_neg]; omega

/-- A read inside a stored list. -/
theorem Memory.read_writeList_inside (m : Memory) (a k : Nat) (us : List Byte) (h : k < us.length) :
    (m.writeList a us).read (a + k) = us[k] := by
  rw [Memory.read_writeList, dif_pos ⟨by omega, by omega⟩]; simp

/-! ### The canonical form -/

theorem Memory.wfFrom_le {lo lo' : Nat} {m : Memory} (h : m.wfFrom lo = true) (hl : lo' ≤ lo) :
    m.wfFrom lo' = true := by
  cases m with
  | nil => rfl
  | cons c m =>
    obtain ⟨b, t⟩ := c
    simp only [Memory.wfFrom, Bool.and_eq_true, decide_eq_true_eq] at h ⊢
    exact ⟨⟨⟨by omega, h.1.1.2⟩, h.1.2⟩, h.2⟩

theorem Memory.wfFrom_erase {lo : Nat} {m : Memory} (a : Nat) (h : m.wfFrom lo = true) :
    (m.erase a).wfFrom lo = true := by
  induction m generalizing lo with
  | nil => rfl
  | cons c m ih =>
    obtain ⟨b, t⟩ := c
    simp only [Memory.wfFrom, Bool.and_eq_true, decide_eq_true_eq] at h
    by_cases hb : b = a
    · simp only [Memory.erase, hb, if_true]
      exact Memory.wfFrom_le (ih h.2) (by omega)
    · simp only [Memory.erase, if_neg hb, Memory.wfFrom, Bool.and_eq_true, decide_eq_true_eq]
      exact ⟨h.1, ih h.2⟩

theorem Memory.wfFrom_insert {lo a : Nat} {m : Memory} {u : Byte} (h : m.wfFrom lo = true) (hl : lo ≤ a)
    (ha : a < Config.memSize) (hu : u ≠ Memory.initial a) : (m.insert a u).wfFrom lo = true := by
  induction m generalizing lo with
  | nil => simp [Memory.insert, Memory.wfFrom, hl, ha, hu]
  | cons c m ih =>
    obtain ⟨b, t⟩ := c
    simp only [Memory.wfFrom, Bool.and_eq_true, decide_eq_true_eq] at h
    by_cases h1 : a < b
    · simp only [Memory.insert, if_pos h1, Memory.wfFrom, Bool.and_eq_true, decide_eq_true_eq]
      exact ⟨⟨⟨hl, ha⟩, by simpa using hu⟩, ⟨⟨by omega, h.1.1.2⟩, h.1.2⟩, h.2⟩
    · by_cases h2 : a = b
      · subst h2
        simp only [Memory.insert, if_neg h1, if_true, Memory.wfFrom, Bool.and_eq_true, decide_eq_true_eq]
        exact ⟨⟨⟨hl, ha⟩, by simpa using hu⟩, h.2⟩
      · simp only [Memory.insert, if_neg h1, if_neg h2, Memory.wfFrom, Bool.and_eq_true, decide_eq_true_eq]
        exact ⟨h.1, ih h.2 (by omega)⟩

/-- A write keeps the canonical form. -/
theorem Memory.wf_write {m : Memory} {a : Nat} (u : Byte) (h : m.wf = true) (ha : a < Config.memSize) :
    (m.write a u).wf = true := by
  unfold Memory.write
  split
  · exact Memory.wfFrom_erase a h
  · exact Memory.wfFrom_insert h (Nat.zero_le a) ha ‹_›

/-- A store of several bytes inside memory keeps the canonical form. -/
theorem Memory.wf_writeList {m : Memory} {a : Nat} (us : List Byte) (h : m.wf = true)
    (ha : a + us.length ≤ Config.memSize) : (m.writeList a us).wf = true := by
  induction us generalizing m a with
  | nil => exact h
  | cons u us ih =>
    simp only [List.length_cons] at ha
    exact ih (Memory.wf_write u h (by omega)) (by omega)

/-- Memory after reset has the canonical form. -/
theorem Memory.wf_reset : State.reset.mem.wf = true := rfl

end Sys2Proof.Machine
end

