-- ==== Sys2Proof/Laws/Ops.lean ====
section
/-! SUPPORT. Everything each shared operation can do, said once: the bound check, the key check, the stack pointer's
range, the choice of a key, the fetch and the step. -/

namespace Sys2Proof.Machine

/-! ### Operand values (R77, R142, R144) -/

@[simp] theorem addrWord_toNat (nnn : Addr) : (addrWord nnn).toNat = nnn.toNat := by
  have := nnn.isLt
  simp only [addrWord, BitVec.toNat_setWidth]; omega

@[simp] theorem byteWord_toNat (u : Byte) : (byteWord u).toNat = u.toNat := by
  have := u.isLt
  simp only [byteWord, BitVec.toNat_setWidth]; omega

@[simp] theorem glyphAddr_toNat (u : Byte) : (glyphAddr u).toNat = 0x050 + 5 * u.toNat := by
  have := u.isLt
  simp only [glyphAddr, BitVec.toNat_ofNat, Config.fontBase, Config.fontGlyphBytes]; omega

theorem State.ea_add (s : State) (j k : Nat) : s.ea (j + k) = s.ea j + k := (Nat.add_assoc ..).symm

@[simp] theorem State.length_regsUpTo (s : State) (x : Reg) : (s.regsUpTo x).length = x.val + 1 := by
  have := x.isLt
  simp only [State.regsUpTo, List.length_take, Vector.length_toList]; omega

theorem State.getElem_regsUpTo (s : State) (x r : Reg) (h : r.val < (s.regsUpTo x).length) :
    (s.regsUpTo x)[r.val] = s.reg r := by
  simp [State.regsUpTo, State.reg]

/-! ### The bound check (R60) -/

theorem State.inRange_iff (s : State) (n : Nat) : s.inRange n = true ↔ n = 0 ∨ s.ea (n - 1) < 4096 := by
  simp [State.inRange, Config.memSize]

theorem State.access_of_inRange {s t : State} {n : Nat} (h : n = 0 ∨ s.ea (n - 1) < 4096) : s.access n t = .next t := by
  rw [State.access, if_pos ((s.inRange_iff n).2 h)]

theorem State.access_of_overrun {s t : State} {n : Nat} (h1 : 1 ≤ n) (h2 : 4096 ≤ s.ea (n - 1)) :
    s.access n t = .fault (.memoryOverrun s.pc (some s.opc) (s.ea (n - 1))) := by
  rw [State.access, if_neg (by rw [s.inRange_iff]; omega)]; rfl

/-- A bound-checked instruction that answers a next state was in range and answers the state it was given. -/
theorem State.access_next {s t u : State} {n : Nat} (h : s.access n t = .next u) :
    (n = 0 ∨ s.ea (n - 1) < 4096) ∧ u = t := by
  unfold State.access at h
  split at h
  · exact ⟨(s.inRange_iff n).1 ‹_›, by injection h with h; exact h.symm⟩
  · cases h

theorem State.access_fault_iff {s t : State} {n : Nat} {f : Fault} :
    s.access n t = .fault f ↔
      1 ≤ n ∧ 4096 ≤ s.ea (n - 1) ∧ f = .memoryOverrun s.pc (some s.opc) (s.ea (n - 1)) := by
  by_cases h : n = 0 ∨ s.ea (n - 1) < 4096
  · rw [State.access_of_inRange h]; simp; omega
  · rw [State.access_of_overrun (by omega) (by omega)]
    simp only [Host.Outcome.fault.injEq]
    exact ⟨fun e => ⟨by omega, by omega, e.symm⟩, fun e => e.2.2.symm⟩

theorem State.access_not_refused {s t : State} {n : Nat} {r : Refusal} : s.access n t ≠ .refused r := by
  unfold State.access; split <;> simp [raise]

/-! ### The key check (R150) -/

theorem State.withKey_of_le {s : State} {u : Byte} {g : Fin 16 → State} {k : Fin 16} (h : u.toNat = k.val) :
    s.withKey u g = .next (g k) := by
  have hk := k.isLt
  rw [State.withKey, dif_pos (by omega)]
  congr 2; exact Fin.ext h

theorem State.withKey_of_gt {s : State} {u : Byte} {g : Fin 16 → State} (h : 16 ≤ u.toNat) :
    s.withKey u g = .fault (.invalidKey s.pc s.opc u) := by
  rw [State.withKey, dif_neg (by omega)]; rfl

/-- A key-checked instruction that answers a next state had a key number, and answers that key's state. -/
theorem State.withKey_next {s t : State} {u : Byte} {g : Fin 16 → State} (h : s.withKey u g = .next t) :
    ∃ k : Fin 16, u.toNat = k.val ∧ t = g k := by
  unfold State.withKey at h
  split at h
  · exact ⟨_, rfl, by injection h with h; exact h.symm⟩
  · cases h

theorem State.withKey_fault_iff {s : State} {u : Byte} {g : Fin 16 → State} {f : Fault} :
    s.withKey u g = .fault f ↔ 15 < u.toNat ∧ f = .invalidKey s.pc s.opc u := by
  by_cases h : u.toNat < 16
  · rw [State.withKey, dif_pos h]; simp; omega
  · rw [State.withKey_of_gt (by omega)]
    simp only [Host.Outcome.fault.injEq]
    exact ⟨fun e => ⟨by omega, e.symm⟩, fun e => e.2.symm⟩

theorem State.withKey_not_refused {s : State} {u : Byte} {g : Fin 16 → State} {r : Refusal} :
    s.withKey u g ≠ .refused r := by
  unfold State.withKey; split <;> simp [raise]

/-! ### The stack pointer's range (R29) -/

theorem State.withLegalSp_of_le {s : State} {r : Result} (h : s.sp.toNat ≤ 16) : s.withLegalSp r = r := by
  rw [State.withLegalSp, if_pos h]

theorem State.withLegalSp_of_gt {s : State} {r : Result} (h : 16 < s.sp.toNat) :
    s.withLegalSp r = .refused (.stackPointerRange s.sp) := by
  rw [State.withLegalSp, if_neg (by omega)]

/-- 00EE with a slot in use (R126). -/
theorem execRet_of_used {s : State} (h1 : 1 ≤ s.sp.toNat) (h2 : s.sp.toNat ≤ 16) :
    execRet s = .next (s.pop.commit s.top) := by
  have h0 : s.sp ≠ 0 := fun e => by rw [e] at h1; exact absurd h1 (by decide)
  rw [execRet, State.withLegalSp_of_le h2, if_neg h0]

/-- 2nnn with a free slot (R127). -/
theorem execCallNnn_of_free {s : State} {nnn : Addr} (h : s.sp.toNat ≤ 15) :
    execCallNnn nnn s = .next ((s.push s.npc).commit (addrWord nnn)) := by
  rw [execCallNnn, State.withLegalSp_of_le (by omega), if_neg (by omega)]

/-- 00EE with a next state: the stack was not empty (R126). -/
theorem execRet_next {s t : State} (h : execRet s = .next t) :
    1 ≤ s.sp.toNat ∧ s.sp.toNat ≤ 16 ∧ t = s.pop.commit s.top := by
  unfold execRet State.withLegalSp at h
  split at h
  · split at h
    · cases h
    · rename_i h1 h2
      have : s.sp.toNat ≠ 0 := fun e => h2 (BitVec.eq_of_toNat_eq (by simpa using e))
      exact ⟨by omega, h1, by injection h with h; exact h.symm⟩
  · cases h

/-- 2nnn with a next state: the stack was not full (R127). -/
theorem execCallNnn_next {s t : State} {nnn : Addr} (h : execCallNnn nnn s = .next t) :
    s.sp.toNat ≤ 15 ∧ t = (s.push s.npc).commit (addrWord nnn) := by
  unfold execCallNnn State.withLegalSp at h
  split at h
  · split at h
    · cases h
    · exact ⟨by omega, by injection h with h; exact h.symm⟩
  · cases h

/-! ### The choice of a key (R152) -/

theorem mem_keyNumbers : ∀ k : Fin 16, k ∈ keyNumbers := by decide

theorem State.lowestKey_eq_none_iff (s : State) : s.lowestKey = none ↔ ∀ k, s.key k = false := by
  simp [State.lowestKey, List.find?_eq_none, mem_keyNumbers]

/-- The chosen key is pressed and no lower one is. -/
theorem State.lowestKey_eq_some {s : State} {k : Fin 16} (h : s.lowestKey = some k) :
    s.key k = true ∧ ∀ j : Fin 16, j.val < k.val → s.key j = false := by
  have hs : keyNumbers.Pairwise (fun a b : Fin 16 => a.val < b.val) := by decide
  rw [State.lowestKey, List.find?_eq_some_iff_append] at h
  obtain ⟨hk, as, bs, hab, hall⟩ := h
  refine ⟨hk, fun j hj => ?_⟩
  have hm := mem_keyNumbers j
  rw [hab] at hm hs
  rcases List.mem_append.1 hm with hm | hm
  · simpa using hall j hm
  · have hp := (List.pairwise_append.1 hs).2.1
    rcases List.mem_cons.1 hm with e | hm
    · subst e; omega
    · have := (List.pairwise_cons.1 hp).1 j hm; omega

/-! ### Fetch and step (R91 to R96) -/

theorem State.canFetch_iff (s : State) : s.canFetch = true ↔ s.pc.toNat + 1 < 4096 := by
  simp [State.canFetch, Config.memSize]

theorem State.fetch_of_lt {s : State} (h : s.pc.toNat + 1 < 4096) : s.fetch = .ok s.fetchWord := by
  rw [State.fetch, if_pos (s.canFetch_iff.2 h)]

theorem State.fetch_of_ge {s : State} (h : 4096 ≤ s.pc.toNat + 1) :
    s.fetch = .error (.memoryOverrun s.pc none (s.pc.toNat + 1)) := by
  rw [State.fetch, if_neg (by rw [s.canFetch_iff]; omega)]

theorem State.fetch_ok {s : State} {w : Word} (h : s.fetch = .ok w) : s.pc.toNat + 1 < 4096 ∧ w = s.fetchWord := by
  by_cases hc : s.pc.toNat + 1 < 4096
  · rw [State.fetch_of_lt hc] at h; injection h with h; exact ⟨hc, h.symm⟩
  · rw [State.fetch_of_ge (by omega)] at h; cases h

theorem step_of_ge {s : State} (h : 4096 ≤ s.pc.toNat + 1) :
    step s = .fault (.memoryOverrun s.pc none (s.pc.toNat + 1)) := by
  rw [step, State.fetch_of_ge h]; rfl

theorem step_of_unknown {s : State} {e : DecodeError} (h : s.pc.toNat + 1 < 4096)
    (hd : decodeWord s.fetchWord = .error e) : step s = .fault (.unknownOpcode s.pc s.fetchWord) := by
  rw [step, State.fetch_of_lt h]; simp [hd, raise]

theorem step_of_decoded {s : State} {i : Instr} (h : s.pc.toNat + 1 < 4096) (hd : decodeWord s.fetchWord = .ok i) :
    step s = exec i (s.latch s.fetchWord) := by
  rw [step, State.fetch_of_lt h]; simp [hd]

/-- Everything a step can do: fail at the fetch, fail at dispatch, or run the decoded instruction. -/
theorem step_cases (s : State) :
    (4096 ≤ s.pc.toNat + 1 ∧ step s = .fault (.memoryOverrun s.pc none (s.pc.toNat + 1))) ∨
    (s.pc.toNat + 1 < 4096 ∧ (∃ e, decodeWord s.fetchWord = .error e) ∧
      step s = .fault (.unknownOpcode s.pc s.fetchWord)) ∨
    (s.pc.toNat + 1 < 4096 ∧ ∃ i, decodeWord s.fetchWord = .ok i ∧ step s = exec i (s.latch s.fetchWord)) := by
  by_cases h : s.pc.toNat + 1 < 4096
  · cases hd : decodeWord s.fetchWord with
    | error e => exact .inr (.inl ⟨h, ⟨e, rfl⟩, step_of_unknown h hd⟩)
    | ok i => exact .inr (.inr ⟨h, i, rfl, step_of_decoded h hd⟩)
  · exact .inl ⟨by omega, step_of_ge (by omega)⟩

/-- A step with a next state ran the decoded instruction. -/
theorem step_next {s t : State} (h : step s = .next t) :
    s.pc.toNat + 1 < 4096 ∧ ∃ i, decodeWord s.fetchWord = .ok i ∧ exec i (s.latch s.fetchWord) = .next t := by
  rcases step_cases s with ⟨_, h'⟩ | ⟨_, _, h'⟩ | ⟨hf, i, hd, h'⟩
  · rw [h'] at h; cases h
  · rw [h'] at h; cases h
  · exact ⟨hf, i, hd, h' ▸ h⟩

end Sys2Proof.Machine
end

