-- ==== Sys2Proof/WellFormed.lean ====
section
/-! DEFINITION. Which operands an instruction word can carry (R20, R71, R77). An operand is written as the plain number
an assembler would read (R82), and each kind has its range check. The types of `Instr` admit exactly the operands that
pass (R81: no operand value is illegal), which Laws/PerInstr.lean proves instruction by instruction. -/

namespace Sys2Proof

/-- An operand as a plain number, with the field it goes into (R71). -/
inductive Operand where
  /-- a register number, field `x` or `y` -/
  | reg (n : Nat)
  /-- an immediate byte, field `kk` -/
  | byte (n : Nat)
  /-- an address, field `nnn` -/
  | addr (n : Nat)
  /-- a row count, field `n` -/
  | rows (n : Nat)
  deriving DecidableEq, Repr

/-- The range check of an operand: a register number and a row count are 0 to 15, an immediate byte 0 to 255, an
address 0 to 4095 (R20, R77). -/
def Operand.wf : Operand → Bool
  | .reg n => n < 16
  | .byte n => n < 256
  | .addr n => n < 4096
  | .rows n => n < 16

/-- The operands of an instruction, in the order of its assembly text (R72 to R76, R83). -/
def Instr.operands : Instr → List Operand
  | .cls => []
  | .ret => []
  | .jpNnn nnn => [.addr nnn.toNat]
  | .callNnn nnn => [.addr nnn.toNat]
  | .seVxKk x kk => [.reg x, .byte kk.toNat]
  | .sneVxKk x kk => [.reg x, .byte kk.toNat]
  | .seVxVy x y => [.reg x, .reg y]
  | .ldVxKk x kk => [.reg x, .byte kk.toNat]
  | .addVxKk x kk => [.reg x, .byte kk.toNat]
  | .ldVxVy x y => [.reg x, .reg y]
  | .orVxVy x y => [.reg x, .reg y]
  | .andVxVy x y => [.reg x, .reg y]
  | .xorVxVy x y => [.reg x, .reg y]
  | .addVxVy x y => [.reg x, .reg y]
  | .subVxVy x y => [.reg x, .reg y]
  | .shrVx x y => [.reg x, .reg y]
  | .subnVxVy x y => [.reg x, .reg y]
  | .shlVx x y => [.reg x, .reg y]
  | .sneVxVy x y => [.reg x, .reg y]
  | .ldINnn nnn => [.addr nnn.toNat]
  | .jpV0Nnn nnn => [.addr nnn.toNat]
  | .rndVxKk x kk => [.reg x, .byte kk.toNat]
  | .drwVxVyN x y n => [.reg x, .reg y, .rows n.toNat]
  | .skpVx x => [.reg x]
  | .sknpVx x => [.reg x]
  | .ldVxDt x => [.reg x]
  | .ldVxK x => [.reg x]
  | .ldDtVx x => [.reg x]
  | .ldStVx x => [.reg x]
  | .addIVx x => [.reg x]
  | .ldFVx x => [.reg x]
  | .ldBVx x => [.reg x]
  | .ldMemIVx x => [.reg x]
  | .ldVxMemI x => [.reg x]

/-- An instruction is well-formed when each of its operands fits its field. -/
def Instr.wf (i : Instr) : Bool := i.operands.all Operand.wf

end Sys2Proof
end

