-- ==== Sys2Proof/Laws/PerInstr.lean ====
section
/-! SUPPORT. Statements about every instruction as syntax, one lemma per constructor. `Fits`: its operands fit their fields
(R20, R71, R77), so no value of `Instr` is ill-formed. `Selects`: its word satisfies its row of the opcode map (R78). -/

namespace Sys2Proof.Laws.Fits

/-- Every operand of the instruction fits its field. -/
def Statement (i : Instr) : Prop := i.wf = true

theorem cls : Statement .cls := rfl

theorem ret : Statement .ret := rfl

theorem jpNnn (nnn : Addr) : Statement (.jpNnn nnn) := by
  simp [Statement, Instr.wf, Instr.operands, Operand.wf, nnn.isLt]

theorem callNnn (nnn : Addr) : Statement (.callNnn nnn) := by
  simp [Statement, Instr.wf, Instr.operands, Operand.wf, nnn.isLt]

theorem seVxKk (x : Reg) (kk : Byte) : Statement (.seVxKk x kk) := by
  simp [Statement, Instr.wf, Instr.operands, Operand.wf, x.isLt, kk.isLt]

theorem sneVxKk (x : Reg) (kk : Byte) : Statement (.sneVxKk x kk) := by
  simp [Statement, Instr.wf, Instr.operands, Operand.wf, x.isLt, kk.isLt]

theorem seVxVy (x y : Reg) : Statement (.seVxVy x y) := by
  simp [Statement, Instr.wf, Instr.operands, Operand.wf, x.isLt, y.isLt]

theorem ldVxKk (x : Reg) (kk : Byte) : Statement (.ldVxKk x kk) := by
  simp [Statement, Instr.wf, Instr.operands, Operand.wf, x.isLt, kk.isLt]

theorem addVxKk (x : Reg) (kk : Byte) : Statement (.addVxKk x kk) := by
  simp [Statement, Instr.wf, Instr.operands, Operand.wf, x.isLt, kk.isLt]

theorem ldVxVy (x y : Reg) : Statement (.ldVxVy x y) := by
  simp [Statement, Instr.wf, Instr.operands, Operand.wf, x.isLt, y.isLt]

theorem orVxVy (x y : Reg) : Statement (.orVxVy x y) := by
  simp [Statement, Instr.wf, Instr.operands, Operand.wf, x.isLt, y.isLt]

theorem andVxVy (x y : Reg) : Statement (.andVxVy x y) := by
  simp [Statement, Instr.wf, Instr.operands, Operand.wf, x.isLt, y.isLt]

theorem xorVxVy (x y : Reg) : Statement (.xorVxVy x y) := by
  simp [Statement, Instr.wf, Instr.operands, Operand.wf, x.isLt, y.isLt]

theorem addVxVy (x y : Reg) : Statement (.addVxVy x y) := by
  simp [Statement, Instr.wf, Instr.operands, Operand.wf, x.isLt, y.isLt]

theorem subVxVy (x y : Reg) : Statement (.subVxVy x y) := by
  simp [Statement, Instr.wf, Instr.operands, Operand.wf, x.isLt, y.isLt]

theorem shrVx (x y : Reg) : Statement (.shrVx x y) := by
  simp [Statement, Instr.wf, Instr.operands, Operand.wf, x.isLt, y.isLt]

theorem subnVxVy (x y : Reg) : Statement (.subnVxVy x y) := by
  simp [Statement, Instr.wf, Instr.operands, Operand.wf, x.isLt, y.isLt]

theorem shlVx (x y : Reg) : Statement (.shlVx x y) := by
  simp [Statement, Instr.wf, Instr.operands, Operand.wf, x.isLt, y.isLt]

theorem sneVxVy (x y : Reg) : Statement (.sneVxVy x y) := by
  simp [Statement, Instr.wf, Instr.operands, Operand.wf, x.isLt, y.isLt]

theorem ldINnn (nnn : Addr) : Statement (.ldINnn nnn) := by
  simp [Statement, Instr.wf, Instr.operands, Operand.wf, nnn.isLt]

theorem jpV0Nnn (nnn : Addr) : Statement (.jpV0Nnn nnn) := by
  simp [Statement, Instr.wf, Instr.operands, Operand.wf, nnn.isLt]

theorem rndVxKk (x : Reg) (kk : Byte) : Statement (.rndVxKk x kk) := by
  simp [Statement, Instr.wf, Instr.operands, Operand.wf, x.isLt, kk.isLt]

theorem drwVxVyN (x y : Reg) (n : Nibble) : Statement (.drwVxVyN x y n) := by
  simp [Statement, Instr.wf, Instr.operands, Operand.wf, x.isLt, y.isLt, n.isLt]

theorem skpVx (x : Reg) : Statement (.skpVx x) := by
  simp [Statement, Instr.wf, Instr.operands, Operand.wf, x.isLt]

theorem sknpVx (x : Reg) : Statement (.sknpVx x) := by
  simp [Statement, Instr.wf, Instr.operands, Operand.wf, x.isLt]

theorem ldVxDt (x : Reg) : Statement (.ldVxDt x) := by
  simp [Statement, Instr.wf, Instr.operands, Operand.wf, x.isLt]

theorem ldVxK (x : Reg) : Statement (.ldVxK x) := by
  simp [Statement, Instr.wf, Instr.operands, Operand.wf, x.isLt]

theorem ldDtVx (x : Reg) : Statement (.ldDtVx x) := by
  simp [Statement, Instr.wf, Instr.operands, Operand.wf, x.isLt]

theorem ldStVx (x : Reg) : Statement (.ldStVx x) := by
  simp [Statement, Instr.wf, Instr.operands, Operand.wf, x.isLt]

theorem addIVx (x : Reg) : Statement (.addIVx x) := by
  simp [Statement, Instr.wf, Instr.operands, Operand.wf, x.isLt]

theorem ldFVx (x : Reg) : Statement (.ldFVx x) := by
  simp [Statement, Instr.wf, Instr.operands, Operand.wf, x.isLt]

theorem ldBVx (x : Reg) : Statement (.ldBVx x) := by
  simp [Statement, Instr.wf, Instr.operands, Operand.wf, x.isLt]

theorem ldMemIVx (x : Reg) : Statement (.ldMemIVx x) := by
  simp [Statement, Instr.wf, Instr.operands, Operand.wf, x.isLt]

theorem ldVxMemI (x : Reg) : Statement (.ldVxMemI x) := by
  simp [Statement, Instr.wf, Instr.operands, Operand.wf, x.isLt]

end Sys2Proof.Laws.Fits

namespace Sys2Proof.Laws.Selects

/-- The instruction's word satisfies its row of the opcode map. -/
def Statement (i : Instr) : Prop := i.row.selects (encode i) = true

theorem cls : Statement .cls := rfl

theorem ret : Statement .ret := rfl

theorem jpNnn (nnn : Addr) : Statement (.jpNnn nnn) := beq_iff_eq.2 (encNNN_mask ..)

theorem callNnn (nnn : Addr) : Statement (.callNnn nnn) := beq_iff_eq.2 (encNNN_mask ..)

theorem seVxKk (x : Reg) (kk : Byte) : Statement (.seVxKk x kk) := beq_iff_eq.2 (encXKK_mask ..)

theorem sneVxKk (x : Reg) (kk : Byte) : Statement (.sneVxKk x kk) := beq_iff_eq.2 (encXKK_mask ..)

theorem seVxVy (x y : Reg) : Statement (.seVxVy x y) := beq_iff_eq.2 (encXYN_maskN ..)

theorem ldVxKk (x : Reg) (kk : Byte) : Statement (.ldVxKk x kk) := beq_iff_eq.2 (encXKK_mask ..)

theorem addVxKk (x : Reg) (kk : Byte) : Statement (.addVxKk x kk) := beq_iff_eq.2 (encXKK_mask ..)

theorem ldVxVy (x y : Reg) : Statement (.ldVxVy x y) := beq_iff_eq.2 (encXYN_maskN ..)

theorem orVxVy (x y : Reg) : Statement (.orVxVy x y) := beq_iff_eq.2 (encXYN_maskN ..)

theorem andVxVy (x y : Reg) : Statement (.andVxVy x y) := beq_iff_eq.2 (encXYN_maskN ..)

theorem xorVxVy (x y : Reg) : Statement (.xorVxVy x y) := beq_iff_eq.2 (encXYN_maskN ..)

theorem addVxVy (x y : Reg) : Statement (.addVxVy x y) := beq_iff_eq.2 (encXYN_maskN ..)

theorem subVxVy (x y : Reg) : Statement (.subVxVy x y) := beq_iff_eq.2 (encXYN_maskN ..)

theorem shrVx (x y : Reg) : Statement (.shrVx x y) := beq_iff_eq.2 (encXYN_maskN ..)

theorem subnVxVy (x y : Reg) : Statement (.subnVxVy x y) := beq_iff_eq.2 (encXYN_maskN ..)

theorem shlVx (x y : Reg) : Statement (.shlVx x y) := beq_iff_eq.2 (encXYN_maskN ..)

theorem sneVxVy (x y : Reg) : Statement (.sneVxVy x y) := beq_iff_eq.2 (encXYN_maskN ..)

theorem ldINnn (nnn : Addr) : Statement (.ldINnn nnn) := beq_iff_eq.2 (encNNN_mask ..)

theorem jpV0Nnn (nnn : Addr) : Statement (.jpV0Nnn nnn) := beq_iff_eq.2 (encNNN_mask ..)

theorem rndVxKk (x : Reg) (kk : Byte) : Statement (.rndVxKk x kk) := beq_iff_eq.2 (encXKK_mask ..)

theorem drwVxVyN (x y : Reg) (n : Nibble) : Statement (.drwVxVyN x y n) := beq_iff_eq.2 (encXYN_mask ..)

theorem skpVx (x : Reg) : Statement (.skpVx x) := beq_iff_eq.2 (encXKK_maskKk ..)

theorem sknpVx (x : Reg) : Statement (.sknpVx x) := beq_iff_eq.2 (encXKK_maskKk ..)

theorem ldVxDt (x : Reg) : Statement (.ldVxDt x) := beq_iff_eq.2 (encXKK_maskKk ..)

theorem ldVxK (x : Reg) : Statement (.ldVxK x) := beq_iff_eq.2 (encXKK_maskKk ..)

theorem ldDtVx (x : Reg) : Statement (.ldDtVx x) := beq_iff_eq.2 (encXKK_maskKk ..)

theorem ldStVx (x : Reg) : Statement (.ldStVx x) := beq_iff_eq.2 (encXKK_maskKk ..)

theorem addIVx (x : Reg) : Statement (.addIVx x) := beq_iff_eq.2 (encXKK_maskKk ..)

theorem ldFVx (x : Reg) : Statement (.ldFVx x) := beq_iff_eq.2 (encXKK_maskKk ..)

theorem ldBVx (x : Reg) : Statement (.ldBVx x) := beq_iff_eq.2 (encXKK_maskKk ..)

theorem ldMemIVx (x : Reg) : Statement (.ldMemIVx x) := beq_iff_eq.2 (encXKK_maskKk ..)

theorem ldVxMemI (x : Reg) : Statement (.ldVxMemI x) := beq_iff_eq.2 (encXKK_maskKk ..)

end Sys2Proof.Laws.Selects
end

