-- ==== Sys2Proof/Tests/Slice0.lean ====
section
/-! SUPPORT. Tests. Expected results are the vectors of 95_test_vectors.md (named A1, B1, ... in the comments) and words
written out from the formats of 30_encoding.md; then one witness for the hypotheses of each statement that has some. -/

namespace Sys2Proof.Tests

open Machine

/-! ## Helpers -/

/-- The next state, if there is one. -/
def next? (r : Result) : Option State :=
  match r with
  | .next t => some t
  | _ => none

/-- The fault, if there is one. -/
def fault? (r : Result) : Option Fault :=
  match r with
  | .fault f => some f
  | _ => none

/-- The refusal, if there is one. -/
def refusal? (r : Result) : Option Refusal :=
  match r with
  | .refused e => some e
  | _ => none

/-- The reset state with some registers set. -/
def withRegs : List (Reg × Byte) → State
  | [] => State.reset
  | (x, u) :: rest => (withRegs rest).setReg x u

/-- A state with bytes stored from an address on. -/
def State.bytesAt (s : State) (a : Nat) (us : List Byte) : State := s.setMem (s.mem.writeList a us)

/-- A state with some keys pressed. -/
def State.pressed (s : State) (k : BitVec 16) : State := Events.keys k s

/-- A state with one pixel set, written (column, row) as in the vectors. -/
def State.lit (s : State) (px : Fin 64) (py : Fin 32) : State := s.setFb (s.fb.setPixel py px true)

/-- One `STEP` of a word placed at `pc`. -/
def stepWord (s : State) (w : Nat) : Result := step (s.withFetchWord 16 w)

/-- Some values of the state after one `STEP` of a word placed at `pc`. -/
def after {α : Type} (s : State) (w : Nat) (look : State → α) : Option α := (next? (stepWord s w)).map look

/-! ## Well-formedness: one ill-formed operand for each check (R20, R77) -/

theorem test_wf_register_16_refused : (Operand.reg 16).wf = false ∧ (Operand.reg 15).wf = true := by decide
theorem test_wf_byte_256_refused : (Operand.byte 256).wf = false ∧ (Operand.byte 255).wf = true := by decide
theorem test_wf_address_4096_refused : (Operand.addr 4096).wf = false ∧ (Operand.addr 4095).wf = true := by decide
theorem test_wf_rows_16_refused : (Operand.rows 16).wf = false ∧ (Operand.rows 15).wf = true := by decide
theorem test_wf_draw : (Instr.drwVxVyN 15 15 15).wf = true := by decide

/-! ## Decoding: a word for each row of the opcode map (R78), written out from its format -/

theorem test_decode_system : decodeWord 0b0000000011100000 = .ok .cls ∧ decodeWord 0b0000000011101110 = .ok .ret := by
  decide

theorem test_decode_jumps :
    decodeWord 0b0001001000000100 = .ok (.jpNnn 0x204) ∧ decodeWord 0b0010001000001010 = .ok (.callNnn 0x20A) ∧
      decodeWord 0b1011001100000001 = .ok (.jpV0Nnn 0x301) := by decide

theorem test_decode_skips :
    decodeWord 0b0011000111110000 = .ok (.seVxKk 1 0xF0) ∧ decodeWord 0b0100001000000101 = .ok (.sneVxKk 2 0x05) ∧
      decodeWord 0b0101000100100000 = .ok (.seVxVy 1 2) ∧ decodeWord 0b1001000100100000 = .ok (.sneVxVy 1 2) := by decide

theorem test_decode_loads :
    decodeWord 0b0110101001010101 = .ok (.ldVxKk 10 0x55) ∧ decodeWord 0b0111010111111111 = .ok (.addVxKk 5 0xFF) ∧
      decodeWord 0b1000000100100000 = .ok (.ldVxVy 1 2) ∧ decodeWord 0b1100000000001111 = .ok (.rndVxKk 0 0x0F) := by
  decide

theorem test_decode_logic :
    decodeWord 0b1000000100100001 = .ok (.orVxVy 1 2) ∧ decodeWord 0b1000000100100010 = .ok (.andVxVy 1 2) ∧
      decodeWord 0b1000000100100011 = .ok (.xorVxVy 1 2) := by decide

theorem test_decode_flagged :
    decodeWord 0b1000000100100100 = .ok (.addVxVy 1 2) ∧ decodeWord 0b1000000100100101 = .ok (.subVxVy 1 2) ∧
      decodeWord 0b1000000100100110 = .ok (.shrVx 1 2) ∧ decodeWord 0b1000000100100111 = .ok (.subnVxVy 1 2) ∧
      decodeWord 0b1000000100101110 = .ok (.shlVx 1 2) := by decide

theorem test_decode_index :
    decodeWord 0b1010001100000001 = .ok (.ldINnn 0x301) ∧ decodeWord 0b1111101000011110 = .ok (.addIVx 10) ∧
      decodeWord 0b1111101000101001 = .ok (.ldFVx 10) := by decide

theorem test_decode_transfer :
    decodeWord 0b1111101000110011 = .ok (.ldBVx 10) ∧ decodeWord 0b1111001001010101 = .ok (.ldMemIVx 2) ∧
      decodeWord 0b1111001001100101 = .ok (.ldVxMemI 2) := by decide

theorem test_decode_keys :
    decodeWord 0b1110011110011110 = .ok (.skpVx 7) ∧ decodeWord 0b1110011110100001 = .ok (.sknpVx 7) ∧
      decodeWord 0b1111001100001010 = .ok (.ldVxK 3) := by decide

theorem test_decode_timers :
    decodeWord 0b1111000100000111 = .ok (.ldVxDt 1) ∧ decodeWord 0b1111000100010101 = .ok (.ldDtVx 1) ∧
      decodeWord 0b1111000100011000 = .ok (.ldStVx 1) := by decide

theorem test_decode_draw : decodeWord 0b1101000000010010 = .ok (.drwVxVyN 0 1 2) := by decide

/-- F1 to F9, B20, B23, K7: words that are no instruction. -/
theorem test_unknown_words :
    [0x0000, 0x00E1, 0x0123, 0x8008, 0x800F, 0xE000, 0xF000, 0xF075, 0xFFFF, 0x5121, 0x9121, 0xE19F].all
      (fun w => decide (decodeWord w = .error (.unknownOpcode w))) = true := by decide

/-- The byte at the lower address is the high byte (R52). -/
theorem test_decode_bytes_big_endian : decodeBytes [0x6A, 0x55, 0x12] = .ok (.ldVxKk 10 0x55, [0x12]) := by decide
theorem test_decodeTableWord : decodeTableWord 16 0x6A55 = some (.ldVxKk 10 0x55) ∧ decodeTableWord 16 0 = none := by
  decide

/-! ## Arithmetic, logic, shifts, random (T-ALU) -/

/-- A2. -/
theorem test_ldVxKk : after State.reset 0x6FFF (fun t => (t.reg 15, t.pc)) = some (0xFF, 0x202) := by decide
/-- A4. -/
theorem test_addVxKk_no_flag :
    after (withRegs [(0, 0xFF), (15, 0x5A)]) 0x7001 (fun t => (t.reg 0, t.reg 15)) = some (0x00, 0x5A) := by decide
/-- A6. -/
theorem test_addVxKk_vf : after (withRegs [(15, 0xFF)]) 0x7F02 (fun t => t.reg 15) = some 0x01 := by decide
/-- A7. -/
theorem test_ldVxVy : after (withRegs [(2, 0x7B)]) 0x8120 (fun t => (t.reg 1, t.reg 2)) = some (0x7B, 0x7B) := by decide
/-- A8. -/
theorem test_orVxVy :
    after (withRegs [(0, 0x0C), (1, 0x0A), (15, 1)]) 0x8011 (fun t => (t.reg 0, t.reg 15)) = some (0x0E, 1) := by decide
/-- A9. -/
theorem test_andVxVy :
    after (withRegs [(0, 0x0C), (1, 0x0A), (15, 1)]) 0x8012 (fun t => (t.reg 0, t.reg 15)) = some (0x08, 1) := by decide
/-- A10. -/
theorem test_xorVxVy :
    after (withRegs [(0, 0x0C), (1, 0x0A), (15, 1)]) 0x8013 (fun t => (t.reg 0, t.reg 15)) = some (0x06, 1) := by decide
/-- A15. -/
theorem test_addVxVy_no_carry :
    after (withRegs [(0, 0x80), (1, 0x7F), (15, 1)]) 0x8014 (fun t => (t.reg 0, t.reg 15)) = some (0xFF, 0) := by decide
/-- A19. -/
theorem test_addVxVy_old_vf :
    after (withRegs [(1, 0x01), (15, 0xFF)]) 0x81F4 (fun t => (t.reg 1, t.reg 15)) = some (0x00, 1) := by decide
/-- A21. -/
theorem test_subVxVy_borrow :
    after (withRegs [(0, 0x05), (1, 0x0A)]) 0x8015 (fun t => (t.reg 0, t.reg 15)) = some (0xFB, 0) := by decide
/-- A24. -/
theorem test_subVxVy_vf : after (withRegs [(15, 0x05), (1, 0x03)]) 0x8F15 (fun t => t.reg 15) = some 1 := by decide
/-- A30. -/
theorem test_shrVx_bit_0 :
    after (withRegs [(0, 0xFE), (15, 1)]) 0x8006 (fun t => (t.reg 0, t.reg 15)) = some (0x7F, 0) := by decide
/-- A31. -/
theorem test_shrVx_ignores_y :
    after (withRegs [(0, 0x04), (1, 0xFF)]) 0x8016 (fun t => (t.reg 0, t.reg 1)) = some (0x02, 0xFF) := by decide
/-- A26. -/
theorem test_subnVxVy_borrow :
    after (withRegs [(0, 0x0A), (1, 0x05)]) 0x8017 (fun t => (t.reg 0, t.reg 15)) = some (0xFB, 0) := by decide
/-- A27. -/
theorem test_subnVxVy_equal :
    after (withRegs [(0, 0x44), (1, 0x44)]) 0x8017 (fun t => (t.reg 0, t.reg 15)) = some (0x00, 1) := by decide
/-- A33. -/
theorem test_shlVx : after (withRegs [(0, 0x81)]) 0x800E (fun t => (t.reg 0, t.reg 15)) = some (0x02, 1) := by decide
/-- A37. -/
theorem test_shlVx_vf : after (withRegs [(15, 0x81)]) 0x8F0E (fun t => t.reg 15) = some 1 := by decide
/-- A39: `kk = 0xFF` passes the byte through; the byte is the free value, whatever it is. -/
theorem test_rndVxKk_same_byte :
    after State.reset 0xC0FF (fun t => (t.reg 0, t.pc)) = some (Config.rnd 0 &&& 0xFF, 0x202) := by rfl
/-- Two draws in a row use two free bytes (R118, I1). -/
theorem test_rndVxKk_counts : after State.reset 0xC00F (fun t => t.draws) = some 1 := by decide

/-! ## Control flow (T-CF) -/

/-- The state of B8. -/
def inSubroutine : State :=
  { State.reset with pc := 0x20C, sp := 1, stack := State.reset.stack.set 0 0x206 }

/-- The reset state with a stack pointer. -/
def withSp (n : Byte) : State := { State.reset with sp := n }

/-- B8: `S[0]` keeps its value. -/
theorem test_ret : after inSubroutine 0x00EE (fun t => (t.pc, t.sp, t.slot 0)) = some (0x206, 0, 0x206) := by decide
/-- B9. -/
theorem test_ret_underflow : fault? (stepWord State.reset 0x00EE) = some (.stackUnderflow 0x200 0x00EE) := by decide
/-- B1 and B4. -/
theorem test_jpNnn : after State.reset 0x1201 (fun t => t.pc) = some 0x201 := by decide
/-- B3 and F11: a bad target is stored, and the next fetch fails. -/
theorem test_jpNnn_last :
    (next? (stepWord State.reset 0x1FFF)).bind (fun t => fault? (step t)) = some (.memoryOverrun 0xFFF none 0x1000) := by
  decide
/-- B5. -/
theorem test_callNnn :
    after { State.reset with pc := 0x204 } 0x220A (fun t => (t.pc, t.sp, t.slot 0)) = some (0x20A, 1, 0x206) := by decide
/-- B7. -/
theorem test_callNnn_overflow : fault? (stepWord (withSp 16) 0x2300) = some (.stackOverflow 0x200 0x2300) := by decide
/-- B12: 0x10FE is stored whole. -/
theorem test_jpV0Nnn : after (withRegs [(0, 0xFF)]) 0xBFFF (fun t => t.pc) = some 0x10FE := by decide
/-- B13: adds V0, not V2. -/
theorem test_jpV0Nnn_v0 : after (withRegs [(0, 0x10), (2, 0x80)]) 0xB2F0 (fun t => t.pc) = some 0x300 := by decide
/-- B14. -/
theorem test_seVxKk_taken : after State.reset 0x3100 (fun t => t.pc) = some 0x204 := by decide
/-- B24: a taken skip from the last word. -/
theorem test_seVxKk_last : after { State.reset with pc := 0xFFE } 0x3000 (fun t => t.pc) = some 0x1002 := by decide
/-- B16. -/
theorem test_sneVxKk_taken : after (withRegs [(1, 4)]) 0x4105 (fun t => t.pc) = some 0x204 := by decide
/-- B17. -/
theorem test_sneVxKk_not_taken : after (withRegs [(1, 5)]) 0x4105 (fun t => t.pc) = some 0x202 := by decide
/-- B18. -/
theorem test_seVxVy_taken : after (withRegs [(1, 0x33), (2, 0x33)]) 0x5120 (fun t => t.pc) = some 0x204 := by decide
/-- B19. -/
theorem test_seVxVy_not_taken : after (withRegs [(1, 0x33), (2, 0x34)]) 0x5120 (fun t => t.pc) = some 0x202 := by decide
/-- B21. -/
theorem test_sneVxVy_taken : after (withRegs [(1, 1), (2, 2)]) 0x9120 (fun t => t.pc) = some 0x204 := by decide
/-- B22. -/
theorem test_sneVxVy_not_taken : after (withRegs [(1, 2), (2, 2)]) 0x9120 (fun t => t.pc) = some 0x202 := by decide

/-! ## Index and memory transfer (T-MEM) -/

/-- A state with the index register and some registers set. -/
def withIndex (u : Word) (l : List (Reg × Byte)) : State := (withRegs l).setIndex u

/-- M2. -/
theorem test_ldINnn : after (withIndex 0x1234 []) 0xAFFF (fun t => t.index) = some 0x0FFF := by decide
/-- M4: no flag, no mask. -/
theorem test_addIVx_no_mask :
    after (withIndex 0x0FFF [(0, 1)]) 0xF01E (fun t => (t.index, t.reg 15)) = some (0x1000, 0) := by decide
/-- M5. -/
theorem test_addIVx_wraps : after (withIndex 0xFFFF [(0, 1)]) 0xF01E (fun t => t.index) = some 0 := by decide
/-- M6. -/
theorem test_ldFVx : after (withRegs [(0, 0x0A)]) 0xF029 (fun t => t.index) = some 0x0082 := by decide
/-- M10: the whole byte is used. -/
theorem test_ldFVx_whole_byte : after (withRegs [(0, 0xFF)]) 0xF029 (fun t => t.index) = some 0x054B := by decide
/-- M14: 156 at the highest legal place. -/
theorem test_ldBVx :
    after (withIndex 0xFFD [(0, 0x9C)]) 0xF033 (fun t => t.mem.readList 0xFFD 3) = some [1, 5, 6] := by decide
/-- M15. -/
theorem test_ldBVx_overrun :
    fault? (stepWord (withIndex 0xFFE [(0, 0x9C)]) 0xF033) = some (.memoryOverrun 0x200 (some 0xF033) 0x1000) := by decide
/-- M16: V3 is not stored, `I` is unchanged. -/
theorem test_ldMemIVx :
    after (withIndex 0x400 [(0, 0x11), (1, 0x22), (2, 0x33), (3, 0x44)]) 0xF255
      (fun t => (t.mem.readList 0x400 4, t.index)) = some ([0x11, 0x22, 0x33, 0x00], 0x400) := by decide
/-- M18. -/
theorem test_ldMemIVx_overrun :
    fault? (stepWord (withIndex 0xFFF [(0, 0x11), (1, 0x22)]) 0xF155) =
      some (.memoryOverrun 0x200 (some 0xF155) 0x1000) := by decide
/-- M22: the default font; V2 is not loaded. -/
theorem test_ldVxMemI :
    after (withIndex 0x050 [(2, 0x77)]) 0xF165 (fun t => (t.reg 0, t.reg 1, t.reg 2)) = some (0xF0, 0x90, 0x77) := by decide
/-- M25: the address has 17 bits. -/
theorem test_ldVxMemI_no_wrap :
    fault? (stepWord (withIndex 0xFFFF []) 0xF165) = some (.memoryOverrun 0x200 (some 0xF165) 0x10000) := by decide

/-! ## Keypad and timers (T-IN) -/

/-- K1. -/
theorem test_skpVx_pressed : after (State.pressed (withRegs [(0, 7)]) 0x0080) 0xE09E (fun t => t.pc) = some 0x204 := by
  decide
/-- K3: not masked to key 0. -/
theorem test_skpVx_invalid :
    fault? (stepWord (State.pressed (withRegs [(0, 0x10)]) 0x0001) 0xE09E) = some (.invalidKey 0x200 0xE09E 0x10) := by
  decide
/-- K5. -/
theorem test_sknpVx_pressed : after (State.pressed (withRegs [(0, 7)]) 0x0080) 0xE0A1 (fun t => t.pc) = some 0x202 := by
  decide
/-- K6: not read as not pressed. -/
theorem test_sknpVx_invalid :
    fault? (stepWord (withRegs [(0, 0xFF)]) 0xE0A1) = some (.invalidKey 0x200 0xE0A1 0xFF) := by decide
/-- K8. -/
theorem test_ldVxK_waits : after State.reset 0xF00A (fun t => (t.pc, t.wait)) = some (0x200, true) := by decide
/-- K9: the lowest pressed key, and `WAIT` falls. -/
theorem test_ldVxK_lowest :
    after (State.pressed { State.reset with wait := true } 0x0280) 0xF00A (fun t => (t.reg 0, t.pc, t.wait)) =
      some (7, 0x202, false) := by decide
/-- K12. -/
theorem test_ldVxDt : after (State.reset.setDt 6) 0xF107 (fun t => (t.reg 1, t.dt)) = some (6, 6) := by decide
/-- K13. -/
theorem test_ldDtVx : after (withRegs [(0, 7)]) 0xF015 (fun t => (t.dt, t.st)) = some (7, 0) := by decide
/-- K14. -/
theorem test_ldStVx : after (withRegs [(0, 2)]) 0xF018 (fun t => (t.dt, t.st, t.soundOn)) = some (0, 2, true) := by decide

/-! ## Display (T-DRW) -/

/-- The columns of a row that are set. -/
def setColumns (t : State) (py : Fin 32) : List (Fin 64) := (List.finRange 64).filter fun px => t.fb.pixel py px

/-- The state of D2. -/
def spriteAt60 : State := State.bytesAt (withIndex 0x20C [(0, 0x3C), (1, 0x1E)]) 0x20C [0xFF, 0x81]

/-- D1. -/
theorem test_cls :
    after (State.lit State.reset 63 31) 0x00E0 (fun t => (t.fb.pixel 31 63, t.pc)) = some (false, 0x202) := by decide
/-- D2: wraps at the right edge. -/
theorem test_drwVxVyN_wraps :
    after spriteAt60 0xD012 (fun t => (setColumns t 30, setColumns t 31, t.reg 15)) =
      some ([0, 1, 2, 3, 60, 61, 62, 63], [3, 60], 0) := by decide
/-- D6: one pixel on, one off, with a collision. -/
theorem test_drwVxVyN_collides :
    after (State.lit (State.lit (State.bytesAt (withIndex 0x300 []) 0x300 [0xC0]) 1 0) 2 0) 0xD011
      (fun t => (setColumns t 0, t.reg 15)) = some ([0, 2], 1) := by decide

/-! ## Fetch, errors, events (T-FETCH, E1 to E10) -/

/-- F10: an odd `pc` is legal. -/
theorem test_odd_pc :
    after { State.reset with pc := 0x201 } 0x6A55 (fun t => (t.reg 10, t.pc, t.opc)) = some (0x55, 0x203, 0x6A55) := by decide
/-- F14: the address has 17 bits. -/
theorem test_fetch_at_top :
    fault? (step { State.reset with pc := 0xFFFF }) = some (.memoryOverrun 0xFFFF none 0x10000) := by decide
/-- F1. -/
theorem test_zero_word_faults : fault? (step State.reset) = some (.unknownOpcode 0x200 0) := by decide
/-- The codes of R170. -/
theorem test_error_codes :
    ([Fault.unknownOpcode 0 0, .stackOverflow 0 0, .stackUnderflow 0 0, .memoryOverrun 0 none 0, .invalidKey 0 0 0].map
      fun f => f.record.code) = [1, 2, 3, 4, 5] ∧
    ([HostError.programTooLarge 0, .invalidRegister 0, .invalidAddress 0].map HostError.code) = [6, 7, 8] := by decide
/-- E1. -/
theorem test_tick :
    (let t := Events.tick ((State.reset.setDt 2).setSt 1)
     (t.dt, t.st, (Events.tick t).dt, (Events.tick t).st)) = (1, 0, 0, 0) := by decide
/-- E4. -/
theorem test_keys : (List.finRange 16).filter (fun k => (State.pressed State.reset 0x0280).key k) = [7, 9] := by decide
/-- E6. -/
theorem test_load_too_large :
    Events.apply Config.font (.load (List.replicate 3585 0xAA)) State.reset =
      (.hostErr (.programTooLarge 3585), State.reset) := by
  rw [Events.apply, List.length_replicate, if_neg (by decide)]
/-- E7: the font and its borders after a `RESET` that erases a program. -/
theorem test_reset_memory :
    (let t := (Events.apply Config.font .reset (State.bytesAt State.reset 0x200 [0x12, 0x00])).2
     (t.mem.read 0x200, t.mem.read 0x050, t.mem.read 0x09F, t.mem.read 0x04F, t.mem.read 0x0A0)) =
      (0x00, 0xF0, 0x80, 0x00, 0x00) := by decide
/-- E9: a `LOAD` does not reset. -/
theorem test_load_does_not_reset :
    (let t := (Events.apply Config.font (.load [0x12, 0x00]) { withRegs [(0, 7)] with pc := 0x300 }).2
     (t.mem.readList 0x200 2, t.pc, t.reg 0)) = ([0x12, 0x00], 0x300, 7) := by decide
/-- E10. -/
theorem test_accessor_errors :
    (Events.apply Config.font (.peek (.reg 16)) State.reset).1 = .hostErr (.invalidRegister 16) ∧
      (Events.apply Config.font (.poke (.mem 4096 0)) State.reset).1 = .hostErr (.invalidAddress 4096) := by decide
/-- P1: the source's own scenario, by its three words. -/
theorem test_source_scenario :
    (let t := Events.run Config.font [.load [0x60, 0x05, 0x61, 0x0A, 0x80, 0x14], .step, .step, .step] State.reset
     (t.reg 0, t.reg 15, t.pc)) = (15, 0, 0x206) := by decide

/-! ## Witnesses: states and operands that meet the hypotheses of the statements, at the boundary of each clause -/

/-- A state whose next step runs a word. -/
def ready (s : State) (w : Nat) : State := s.withFetchWord 16 w

theorem witness_DecodeFollowsOpcodeMap :
    decodeWord 0x8FFE = .ok (.shlVx 15 15) ∧ decodeWord 0x8FFF = .error (.unknownOpcode 0x8FFF) := by decide

theorem witness_EncodeOfDecode : decodeWord 0xFF65 = .ok (.ldVxMemI 15) ∧ decodeWord 0x00E0 = .ok .cls := by decide

/-- The last address a fetch can start at. -/
theorem witness_StepRunsDecodedInstruction :
    (let s := ready { State.reset with pc := 0xFFE } 0x6A55
     s.pc.toNat + 1 < 4096 ∧
      decodeWord (wordOfBytes (s.mem.read s.pc.toNat) (s.mem.read (s.pc.toNat + 1))) = .ok (.ldVxKk 10 0x55)) := by decide

theorem witness_FetchReadsTwoBytesOrFaults :
    4096 ≤ ({ State.reset with pc := 0xFFF } : State).pc.toNat + 1 ∧
      ({ State.reset with pc := 0xFFE } : State).pc.toNat + 1 < 4096 := by decide

/-- The fetch gives a word, the word is no instruction, and the step fails so. -/
theorem witness_UnknownWordFaults :
    State.reset.fetch = .ok 0 ∧ step State.reset = .fault (.unknownOpcode 0x200 0) ∧ ∀ i, decodeWord 0 ≠ .ok i := by
  refine ⟨by decide, rfl, fun i h => ?_⟩
  rw [show decodeWord 0 = .error (.unknownOpcode 0) by decide] at h
  cases h

theorem witness_StepLatchesOpcodeAndWait :
    after State.reset 0xF00A (fun t => t.wait) = some true ∧ after State.reset 0x6000 (fun t => t.wait) = some false := by
  decide

/-- An error of a `STEP`, an error of a host operation, a refusal. -/
theorem witness_FailingEventChangesNothing :
    (Events.apply Config.font .step State.reset).1 = .err (.unknownOpcode 0x200 0) ∧
      (Events.apply Config.font (.peek (.mem 4096)) State.reset).1 = .hostErr (.invalidAddress 4096) ∧
      (Events.apply Config.font (.poke (.sp 17)) State.reset).1 = .refused (.stackPointerRange 17) := by decide

/-- Each line of R178, with a stack pointer at the two ends of its range. -/
theorem witness_StepFaultsExactly :
    State.reset.sp.toNat ≤ 16 ∧ (withSp 16).sp.toNat ≤ 16 ∧
      fault? (step State.reset) = some (.unknownOpcode 0x200 0) ∧
      fault? (step (ready (withSp 16) 0x2300)) = some (.stackOverflow 0x200 0x2300) ∧
      fault? (step (ready State.reset 0x00EE)) = some (.stackUnderflow 0x200 0x00EE) ∧
      fault? (step (ready (withIndex 0x1000 []) 0xD001)) = some (.memoryOverrun 0x200 (some 0xD001) 0x1000) := by decide

theorem witness_StepRefusesOnlyIllegalStackPointer :
    refusal? (step (ready (withSp 17) 0x00EE)) = some (.stackPointerRange 17) ∧
      refusal? (step (ready (withSp 17) 0x2300)) = some (.stackPointerRange 17) ∧
      refusal? (step (ready (withSp 16) 0x2300)) = none := by decide

theorem witness_TickAndKeysCureNoFault : step State.reset = .fault (.unknownOpcode 0x200 0) := by rfl

/-- A next state, a fault and a refusal, each of an instruction other than Cxkk. -/
theorem witness_RandomByteOnlyForRnd :
    (next? (exec .cls State.reset)).isSome = true ∧ exec .ret State.reset = .fault (.stackUnderflow 0x200 0) ∧
      exec .ret (withSp 17) = .refused (.stackPointerRange 17) ∧ ∀ x kk, Instr.ret ≠ .rndVxKk x kk := by
  exact ⟨by decide, rfl, rfl, fun x kk h => by cases h⟩

theorem witness_StepChangesOnlyListedParts :
    (next? (step (ready State.reset 0x6A55))).isSome = true ∧
      decodeWord (ready State.reset 0x6A55).fetchWord = .ok (.ldVxKk 10 0x55) := by decide

/-- Carry at 255 and 256, borrow at equality, with a destination other than `VF`. -/
theorem witness_AddAndSubtractWithFlag :
    (0 : Reg) ≠ 15 ∧ after (withRegs [(0, 0xFF), (1, 0x00)]) 0x8014 (fun t => t.reg 15) = some 0 ∧
      after (withRegs [(0, 0xFF), (1, 0x01)]) 0x8014 (fun t => t.reg 15) = some 1 ∧
      after (withRegs [(0, 0x33), (1, 0x33)]) 0x8015 (fun t => t.reg 15) = some 1 := by decide

theorem witness_ShiftsByOne : (14 : Reg) ≠ 15 ∧ after (withRegs [(14, 0x81)]) 0x8E06 (fun t => t.reg 14) = some 0x40 := by
  decide

theorem witness_ReturnPopsAddress :
    (1 ≤ (withSp 1).sp.toNat ∧ (withSp 1).sp.toNat ≤ 16) ∧ (1 ≤ (withSp 16).sp.toNat ∧ (withSp 16).sp.toNat ≤ 16) ∧
      (withSp 0).sp.toNat = 0 := by decide

theorem witness_CallPushesReturnAddress :
    (withSp 0).sp.toNat ≤ 15 ∧ (withSp 15).sp.toNat ≤ 15 ∧ (withSp 16).sp.toNat = 16 := by decide

theorem witness_CallThenReturnResumes : (withSp 15).sp.toNat ≤ 15 := by decide

theorem witness_SixteenCallsNest : (List.replicate 16 (0x300 : Addr)).length = 16 ∧ State.reset.sp = 0 := by decide

/-- A target of 4094 can be fetched, one of 4095 cannot. -/
theorem witness_JumpsStoreTheirTarget :
    after State.reset 0x1FFF (fun t => decide (4095 ≤ t.pc.toNat)) = some true ∧
      after State.reset 0x1FFE (fun t => decide (4095 ≤ t.pc.toNat)) = some false ∧
      after (withRegs [(0, 1)]) 0xBFFE (fun t => decide (4095 ≤ t.pc.toNat)) = some true := by decide

theorem witness_RegisterSkips : 1 ≤ (1 : Nibble).toNat ∧ 1 ≤ (15 : Nibble).toNat := by decide

theorem witness_StoresDecimalDigits : (withIndex 0xFFD []).ea 2 < 4096 ∧ 4096 ≤ (withIndex 0xFFE []).ea 2 := by decide

/-- The last byte of memory, the first address above it, and the largest list. -/
theorem witness_StoresRegisters :
    (withIndex 0xFFF []).ea (0 : Reg).val < 4096 ∧ 4096 ≤ (withIndex 0xFFF []).ea (1 : Reg).val ∧
      (withIndex 0xFF0 []).ea (15 : Reg).val < 4096 ∧ 4096 ≤ (withIndex 0xFF1 []).ea (15 : Reg).val := by decide

/-- The same bounds, with registers below, at and above the last one loaded. -/
theorem witness_LoadsRegisters :
    (withIndex 0xFFF []).ea (0 : Reg).val < 4096 ∧ 4096 ≤ (withIndex 0xFFF []).ea (1 : Reg).val ∧
      (0 : Reg).val ≤ (0 : Reg).val ∧ (0 : Reg).val < (1 : Reg).val := by decide

theorem witness_StoreSeenByNextFetch :
    1 ≤ (1 : Reg).val ∧ (withIndex 0x202 []).pc.toNat + 2 = (withIndex 0x202 []).ea 0 ∧
      (withIndex 0x202 []).ea (1 : Reg).val < 4096 := by decide

theorem witness_KeySkips :
    ((withRegs [(0, 15)]).reg 0).toNat = (15 : Fin 16).val ∧ 16 ≤ ((withRegs [(0, 16)]).reg 0).toNat := by decide

/-- No key; the highest key alone; the lowest key. -/
theorem witness_WaitsForKey :
    (∀ k, State.reset.key k = false) ∧
      ((State.pressed State.reset 0x8000).key 15 = true ∧
        ∀ j : Fin 16, j.val < (15 : Fin 16).val → (State.pressed State.reset 0x8000).key j = false) ∧
      ((State.pressed State.reset 0x8001).key 0 = true ∧
        ∀ j : Fin 16, j.val < (0 : Fin 16).val → (State.pressed State.reset 0x8001).key j = false) := by decide

/-- No row at all; one row on the last byte; two rows of which the second is outside. -/
theorem witness_DrawIsXorOfCoveredPixels :
    (0 : Nibble).toNat = 0 ∧ (withIndex 0xFFF []).ea ((1 : Nibble).toNat - 1) < 4096 ∧
      (1 ≤ (2 : Nibble).toNat ∧ 4096 ≤ (withIndex 0xFFF []).ea ((2 : Nibble).toNat - 1)) := by decide

theorem witness_DrawTwiceRestores :
    (0 : Reg) ≠ 15 ∧ (1 : Reg) ≠ 15 ∧ (withIndex 0xFFF []).ea ((1 : Nibble).toNat - 1) < 4096 ∧
      ∀ py px, (withIndex 0xFFF []).fb.pixel py px = false := by
  refine ⟨by decide, by decide, by decide, fun py px => ?_⟩
  simp [withIndex, withRegs, State.setIndex, State.reset, Framebuffer.pixel]

/-- Where R162 (d) goes further than R161: on pixels that are all set the second draw gives `VF = 0` (log entry 14). -/
theorem witness_DrawTwiceRestores_on_set_pixels :
    (next? (exec (.drwVxVyN 0 0 1) (State.lit (State.bytesAt (withIndex 0x300 []) 0x300 [0x80]) 0 0))).bind
      (fun t => (next? (exec (.drwVxVyN 0 0 1) t)).map fun u => (t.reg 15, u.reg 15)) = some (1, 0) := by decide

theorem witness_LoadCopiesProgram :
    (List.replicate 3584 (0xAA : Byte)).length ≤ 3584 ∧ 3584 < (List.replicate 3585 (0xAA : Byte)).length ∧
      ([] : List Byte).length ≤ 3584 := by
  simp only [List.length_replicate]; decide

theorem witness_KeysAreLatched :
    (next? (step (ready State.reset 0xE0A1))).isSome = true ∧ Event.step ≠ .reset ∧ (∀ j, Event.step ≠ .keys j) ∧
      ∀ p, Event.step ≠ .poke p := by
  refine ⟨by decide, by decide, ?_, ?_⟩ <;> intro _ h <;> cases h

theorem witness_PokeThenPeek : (15 < 16 ∧ 16 ≤ 16) ∧ (4095 < 4096 ∧ 4096 ≤ 4096) := by decide

theorem witness_ParkedStateStays : (ready State.reset 0x1200).parked = true := by decide

/-- The invariant with an empty and with a full stack, in states with a next state. -/
theorem witness_StepKeepsInvariant :
    (ready State.reset 0x2300).Inv ∧ (next? (step (ready State.reset 0x2300))).isSome = true ∧
      (let s := ready { withSp 16 with stack := Vector.replicate 16 0x1000, pc := 0xFFE } 0x00EE
       s.Inv ∧ (next? (step s)).isSome = true) := by decide

theorem witness_EventsKeepInvariant :
    State.reset.Inv ∧ ∀ e ∈ [Event.reset, .load [0x60, 0x05], .step, .tick, .keys 1, .peek .pc], ∀ p, e ≠ .poke p := by
  refine ⟨by decide, fun e he p h => ?_⟩
  subst h
  simp at he

end Sys2Proof.Tests
end

section
/-! PROOFS. The words of instructions: decoding undoes encoding, and the word of a format as a plain number. -/

namespace Sys2Proof.Machine

/-- Decoding undoes encoding (R71 to R79): the format's field lemmas select the decoder's branch and give back the
operands. -/
theorem decodeWord_encode (i : Instr) : decodeWord (encode i) = .ok i := by
  cases i with
  | cls | ret => rfl
  | jpNnn | callNnn | ldINnn | jpV0Nnn => simp [encode, decodeWord]
  | seVxKk | sneVxKk | ldVxKk | addVxKk | rndVxKk => simp [encode, decodeWord]
  | seVxVy | sneVxVy | drwVxVyN => simp [encode, decodeWord]
  | ldVxVy | orVxVy | andVxVy | xorVxVy | addVxVy | subVxVy | shrVx | subnVxVy | shlVx =>
    simp [encode, decodeWord, decodeOp8]
  | skpVx | sknpVx => simp [encode, decodeWord, decodeOpE]
  | ldVxDt | ldVxK | ldDtVx | ldStVx | addIVx | ldFVx | ldBVx | ldMemIVx | ldVxMemI =>
    simp [encode, decodeWord, decodeOpF]

/-- The number of an instruction's word decodes to the instruction. -/
theorem wordIs_of_encode {i : Instr} {n : Nat} (h : encode i = BitVec.ofNat 16 n) : wordIs n i := by
  rw [wordIs, ← h, decodeWord_encode]

/-- The number of a word of format XKK (R74, R76), over the base that the opcode map gives its row (R78). -/
theorem wordIs_encXKK {i : Instr} {op : Nibble} {x : Reg} {kk : Byte} {base : Nat} (h : encode i = encXKK op x kk)
    (hb : base = 4096 * op.toNat) : wordIs (base + 256 * x.val + kk.toNat) i :=
  wordIs_of_encode (by rw [h, encXKK_eq, hb])

/-- The number of a word of formats XY and XYN (R75), over the base that the opcode map gives its row (R78). -/
theorem wordIs_encXYN {i : Instr} {op : Nibble} {x y : Reg} {n : Nibble} {base : Nat}
    (h : encode i = encXYN op x y n) (hb : base = 4096 * op.toNat + n.toNat) :
    wordIs (base + 256 * x.val + 16 * y.val) i := by
  apply wordIs_of_encode
  rw [h, encXYN_eq]
  congr 1
  omega

end Sys2Proof.Machine
end

section
/-! PROOFS. The ALU family (41_alu.md): instructions that write one register and no flag. -/

namespace Sys2Proof.Machine

/-- The frame of an instruction that writes one register and goes on to the next instruction (R92, R97). -/
theorem State.setReg_commit_frame (s : State) (x : Reg) (u : Byte) :
    s.keepsRegs ((s.setReg x u).commit s.npc) [x] ∧ ((s.setReg x u).commit s.npc).okAt (s.pc + 2) ∧
      s.changesOnly ((s.setReg x u).commit s.npc) [.regs, .pc, .wait] := by
  refine ⟨fun r hr => ?_, ⟨rfl, rfl⟩, fun p hp => ?_⟩
  · have hne : r ≠ x := by simpa using hr
    simp [hne]
  · cases p with
    | regs | pc | wait => simp at hp
    | index | sp | dt | st | opc | draws => rfl
    | stack | keys | fb | mem => simp [Part.same]

/-- Settles O17: each of the six writes one computed byte to `Vx` and commits, so the frame is that of a register write
and only the byte differs. -/
theorem plainRegisterWrites : Obligations.PlainRegisterWrites := by
  intro x y kk s
  refine ⟨⟨wordIs_encXKK rfl rfl, _, exec_ldVxKk s x kk, ?ldKk, s.setReg_commit_frame x _⟩,
    ⟨wordIs_encXKK rfl rfl, _, exec_addVxKk s x kk, ?addKk, s.setReg_commit_frame x _⟩,
    ⟨wordIs_encXYN rfl rfl, _, exec_ldVxVy s x y, ?ld, s.setReg_commit_frame x _⟩,
    ⟨wordIs_encXYN rfl rfl, _, exec_orVxVy s x y, ?or, s.setReg_commit_frame x _⟩,
    ⟨wordIs_encXYN rfl rfl, _, exec_andVxVy s x y, ?and, s.setReg_commit_frame x _⟩,
    ⟨wordIs_encXYN rfl rfl, _, exec_xorVxVy s x y, ?xor, s.setReg_commit_frame x _⟩⟩
  case ldKk => simp
  case addKk => simp [BitVec.toNat_add]
  case ld => simp
  case or => simp
  case and => simp
  case xor => simp

end Sys2Proof.Machine
end

section
/-! PROOFS. Control flow (42_control_flow.md): the conditional skips. -/

namespace Sys2Proof.Machine

/-- Where a conditional skip ends (R125): two bytes past the next instruction when the condition holds, else at the next
instruction, with result `OK`. -/
theorem State.skipIf_okAt (s : State) (c : Bool) : (s.skipIf c).okAt (if c then s.pc + 4 else s.pc + 2) := by
  have hskip : s.npc + 2 = s.pc + 4 := BitVec.add_assoc s.pc 2 2
  refine ⟨?_, rfl⟩
  rw [State.skipIf_pc, hskip, State.npc]

/-- The frame of a conditional skip (R125): nothing but `pc` and `WAIT` changes. -/
theorem State.skipIf_changesOnly (s : State) (c : Bool) : s.changesOnly (s.skipIf c) [.pc, .wait] := by
  intro p hp
  cases p with
  | pc | wait => simp at hp
  | index | sp | dt | st | opc | draws => rfl
  | regs | stack | keys | fb | mem => simp [Part.same]

/-- Settles O26: both are one conditional skip, on equality for 3xkk and on difference for 4xkk, so that the two targets
change places. -/
theorem immediateSkips : Obligations.ImmediateSkips := by
  intro x kk s
  refine ⟨⟨wordIs_encXKK rfl rfl, _, exec_seVxKk s x kk, ?equal, s.skipIf_changesOnly _⟩,
    ⟨wordIs_encXKK rfl rfl, _, exec_sneVxKk s x kk, ?differ, s.skipIf_changesOnly _⟩⟩
  case equal => simpa [BitVec.toNat_inj] using s.skipIf_okAt (s.reg x == kk)
  case differ => simpa [BitVec.toNat_inj] using s.skipIf_okAt (s.reg x != kk)

end Sys2Proof.Machine
end

section
/-! PROOFS. The display (45_display.md): the instruction that clears the framebuffer. -/

namespace Sys2Proof.Machine

/-- Where an instruction that replaces the framebuffer ends (R92, R97). -/
theorem State.setFb_commit_okAt (s : State) (f : Framebuffer) : ((s.setFb f).commit s.npc).okAt (s.pc + 2) :=
  ⟨rfl, rfl⟩

/-- The frame of an instruction that replaces the framebuffer and goes on to the next instruction (R92, R97). -/
theorem State.setFb_commit_changesOnly (s : State) (f : Framebuffer) :
    s.changesOnly ((s.setFb f).commit s.npc) [.fb, .pc, .wait] := by
  intro p hp
  cases p with
  | fb | pc | wait => simp at hp
  | index | sp | dt | st | opc | draws => rfl
  | regs | stack | keys | mem => simp [Part.same]

/-- Settles O37: the instruction stores the clear framebuffer and commits, so every pixel is a pixel of the clear
framebuffer and the frame is that of a framebuffer write. -/
theorem clearsFramebuffer : Obligations.ClearsFramebuffer := by
  refine ⟨wordIs_of_encode rfl, fun s =>
    ⟨_, exec_cls s, fun py px => ?pixels, s.setFb_commit_okAt _, s.setFb_commit_changesOnly _⟩⟩
  case pixels => rw [State.commit_fb, State.setFb_fb, Framebuffer.pixel_clear]

end Sys2Proof.Machine
end

section
/-! PROOFS. Encoding (30_encoding.md): encoding undoes decoding, the opcode map, and the unknown words. -/

namespace Sys2Proof.Machine

/-- Settles O1: `decodeWord_encode`, by the formats' field lemmas. -/
theorem decodeOfEncode : Obligations.DecodeOfEncode := decodeWord_encode

/-! ### Words as numbers (R73 to R76) -/

/-- The number of a word of format NNN (R73), over the base that the opcode map gives its row (R78). -/
theorem wordIs_encNNN {i : Instr} {op : Nibble} {nnn : Addr} {base : Nat} (h : encode i = encNNN op nnn)
    (hb : base = 4096 * op.toNat) : wordIs (base + nnn.toNat) i :=
  wordIs_of_encode (by rw [h, encNNN_eq, hb])

/-- The number of a word of format X (R76), over the base that the opcode map gives its row (R78). -/
theorem wordIs_encX {i : Instr} {op : Nibble} {x : Reg} {kk : Byte} {base : Nat} (h : encode i = encXKK op x kk)
    (hb : base = 4096 * op.toNat + kk.toNat) : wordIs (base + 256 * x.val) i := by
  apply wordIs_of_encode
  rw [h, encXKK_eq]
  congr 1
  omega

/-- The number of a word of format XYN (R75), over the base that the opcode map gives its row (R78). -/
theorem wordIs_encXYN_add {i : Instr} {op : Nibble} {x y : Reg} {n : Nibble} {base : Nat}
    (h : encode i = encXYN op x y n) (hb : base = 4096 * op.toNat) :
    wordIs (base + 256 * x.val + 16 * y.val + n.toNat) i :=
  wordIs_of_encode (by rw [h, encXYN_eq, hb])

/-! ### A word is its fields (R71) -/

theorem encNNN_fields (w : Word) : encNNN w.op w.nnn = w :=
  BitVec.eq_of_toNat_eq (by rw [encNNN_toNat, Word.op_toNat, Word.nnn_toNat]; omega)

theorem encXKK_fields (w : Word) : encXKK w.op w.x w.kk = w :=
  BitVec.eq_of_toNat_eq (by rw [encXKK_toNat, Word.op_toNat, Word.x_val, Word.kk_toNat]; omega)

theorem encXYN_fields (w : Word) : encXYN w.op w.x w.y w.n = w :=
  BitVec.eq_of_toNat_eq (by
    rw [encXYN_toNat, Word.op_toNat, Word.x_val, Word.y_val, Word.n_toNat]; omega)

/-! ### A word whose fixed fields have given numbers is the word of its operands -/

theorem encNNN_of_op {w : Word} {op : Nibble} (hop : w.op.toNat = op.toNat) : encNNN op w.nnn = w := by
  rw [← BitVec.eq_of_toNat_eq hop, encNNN_fields]

theorem encXKK_of_op {w : Word} {op : Nibble} (hop : w.op.toNat = op.toNat) : encXKK op w.x w.kk = w := by
  rw [← BitVec.eq_of_toNat_eq hop, encXKK_fields]

theorem encXKK_of_op_kk {w : Word} {op : Nibble} {kk : Byte} (hop : w.op.toNat = op.toNat)
    (hkk : w.kk.toNat = kk.toNat) : encXKK op w.x kk = w := by
  rw [← BitVec.eq_of_toNat_eq hop, ← BitVec.eq_of_toNat_eq hkk, encXKK_fields]

theorem encXYN_of_op {w : Word} {op : Nibble} (hop : w.op.toNat = op.toNat) : encXYN op w.x w.y w.n = w := by
  rw [← BitVec.eq_of_toNat_eq hop, encXYN_fields]

theorem encXYN_of_op_n {w : Word} {op n : Nibble} (hop : w.op.toNat = op.toNat) (hn : w.n.toNat = n.toNat) :
    encXYN op w.x w.y n = w := by
  rw [← BitVec.eq_of_toNat_eq hop, ← BitVec.eq_of_toNat_eq hn, encXYN_fields]

/-! ### Encoding undoes decoding, one lemma per table of the decoder -/

theorem encode_of_decodeOp0 {w : Word} {i : Instr} (h : decodeOp0 w = .ok i) : encode i = w := by
  unfold decodeOp0 at h
  split at h
  case h_1 hw => cases h; exact BitVec.eq_of_toNat_eq hw.symm
  case h_2 hw => cases h; exact BitVec.eq_of_toNat_eq hw.symm
  case h_3 => cases h

theorem encode_of_decodeOp8 {w : Word} {i : Instr} (hop : w.op.toNat = 8) (h : decodeOp8 w = .ok i) :
    encode i = w := by
  unfold decodeOp8 at h
  split at h
  case h_10 => cases h
  all_goals cases h; exact encXYN_of_op_n hop ‹_›

theorem encode_of_decodeOpE {w : Word} {i : Instr} (hop : w.op.toNat = 14) (h : decodeOpE w = .ok i) :
    encode i = w := by
  unfold decodeOpE at h
  split at h
  case h_3 => cases h
  all_goals cases h; exact encXKK_of_op_kk hop ‹_›

theorem encode_of_decodeOpF {w : Word} {i : Instr} (hop : w.op.toNat = 15) (h : decodeOpF w = .ok i) :
    encode i = w := by
  unfold decodeOpF at h
  split at h
  case h_10 => cases h
  all_goals cases h; exact encXKK_of_op_kk hop ‹_›

/-- The two rows that fix the last digit at 0 (R78 rows 7 and 19). -/
theorem eq_of_ite_n_zero {w : Word} {e : DecodeError} {i j : Instr}
    (h : (if w.n = 0 then .ok j else .error e : Except DecodeError Instr) = .ok i) : w.n.toNat = 0 ∧ i = j := by
  split at h
  case isTrue hn => cases h; exact ⟨by rw [hn]; rfl, rfl⟩
  case isFalse => cases h

theorem encode_of_decodeWord {w : Word} {i : Instr} (h : decodeWord w = .ok i) : encode i = w := by
  unfold decodeWord at h
  split at h
  case h_1 => exact encode_of_decodeOp0 h
  case h_6 hop => obtain ⟨hn, rfl⟩ := eq_of_ite_n_zero h; exact encXYN_of_op_n hop hn
  case h_9 hop => exact encode_of_decodeOp8 hop h
  case h_10 hop => obtain ⟨hn, rfl⟩ := eq_of_ite_n_zero h; exact encXYN_of_op_n hop hn
  case h_14 hop => cases h; exact encXYN_of_op hop
  case h_15 hop => exact encode_of_decodeOpE hop h
  case h_16 hop => exact encode_of_decodeOpF hop h
  case h_17 => cases h
  case h_2 hop | h_3 hop | h_11 hop | h_12 hop => cases h; exact encNNN_of_op hop
  case h_4 hop | h_5 hop | h_7 hop | h_8 hop | h_13 hop => cases h; exact encXKK_of_op hop

/-- Settles O2: each branch of the decoder has fixed the fields that its instruction's format fixes. -/
theorem encodeOfDecode : Obligations.EncodeOfDecode := fun _ _ => encode_of_decodeWord

/-! ### The opcode map (R78) -/

/-- The word of an instruction satisfies the instruction's row: its format's mask leaves the fixed bits. -/
theorem selects_encode (i : Instr) : i.row.selects (encode i) = true := by
  cases i with
  | cls | ret => rfl
  | jpNnn | callNnn | ldINnn | jpV0Nnn => exact beq_iff_eq.2 (encNNN_mask ..)
  | seVxKk | sneVxKk | ldVxKk | addVxKk | rndVxKk => exact beq_iff_eq.2 (encXKK_mask ..)
  | drwVxVyN => exact beq_iff_eq.2 (encXYN_mask ..)
  | seVxVy | sneVxVy | ldVxVy | orVxVy | andVxVy | xorVxVy | addVxVy | subVxVy | shrVx | subnVxVy | shlVx =>
    exact beq_iff_eq.2 (encXYN_maskN ..)
  | skpVx | sknpVx | ldVxDt | ldVxK | ldDtVx | ldStVx | addIVx | ldFVx | ldBVx | ldMemIVx | ldVxMemI =>
    exact beq_iff_eq.2 (encXKK_maskKk ..)

/-- A word under a row that fixes `op` (R73 to R75). -/
theorem op_of_selects {w : Word} {op : Nibble} (h : OpcodeRow.selects ⟨encNNN op 0, 0xF000⟩ w = true) :
    w.op.toNat = op.toNat := by
  have hm : encNNN w.op 0 = encNNN op 0 := by
    rw [← encNNN_mask w.op w.nnn, encNNN_fields]; exact beq_iff_eq.1 h
  simpa using congrArg (fun v => (Word.op v).toNat) hm

/-- A word under a row that fixes `op` and `n` (R75). -/
theorem op_n_of_selects {w : Word} {op n : Nibble} (h : OpcodeRow.selects ⟨encXYN op 0 0 n, 0xF00F⟩ w = true) :
    w.op.toNat = op.toNat ∧ w.n.toNat = n.toNat := by
  have hm : encXYN w.op 0 0 w.n = encXYN op 0 0 n := by
    rw [← encXYN_maskN w.op w.x w.y w.n, encXYN_fields]; exact beq_iff_eq.1 h
  exact ⟨by simpa using congrArg (fun v => (Word.op v).toNat) hm,
    by simpa using congrArg (fun v => (Word.n v).toNat) hm⟩

/-- A word under a row that fixes `op` and `kk` (R76). -/
theorem op_kk_of_selects {w : Word} {op : Nibble} {kk : Byte}
    (h : OpcodeRow.selects ⟨encXKK op 0 kk, 0xF0FF⟩ w = true) : w.op.toNat = op.toNat ∧ w.kk.toNat = kk.toNat := by
  have hm : encXKK w.op 0 w.kk = encXKK op 0 kk := by
    rw [← encXKK_maskKk w.op w.x w.kk, encXKK_fields]; exact beq_iff_eq.1 h
  exact ⟨by simpa using congrArg (fun v => (Word.op v).toNat) hm,
    by simpa using congrArg (fun v => (Word.kk v).toNat) hm⟩

/-- A word under a row without operands. -/
theorem eq_of_selects {w p : Word} (h : OpcodeRow.selects ⟨p, 0xFFFF⟩ w = true) : p = w := by
  have hp : w &&& 0xFFFF = p := beq_iff_eq.1 h
  rw [← hp]; exact BitVec.and_allOnes

theorem encNNN_of_selects {w : Word} {op : Nibble} (h : OpcodeRow.selects ⟨encNNN op 0, 0xF000⟩ w = true) :
    encNNN op w.nnn = w := encNNN_of_op (op_of_selects h)

theorem encXKK_of_selects {w : Word} {op : Nibble} (h : OpcodeRow.selects ⟨encNNN op 0, 0xF000⟩ w = true) :
    encXKK op w.x w.kk = w := encXKK_of_op (op_of_selects h)

theorem encXYN_of_selects {w : Word} {op : Nibble} (h : OpcodeRow.selects ⟨encNNN op 0, 0xF000⟩ w = true) :
    encXYN op w.x w.y w.n = w := encXYN_of_op (op_of_selects h)

theorem encXY_of_selects {w : Word} {op n : Nibble} (h : OpcodeRow.selects ⟨encXYN op 0 0 n, 0xF00F⟩ w = true) :
    encXYN op w.x w.y n = w :=
  have ⟨hop, hn⟩ := op_n_of_selects h
  encXYN_of_op_n hop hn

theorem encX_of_selects {w : Word} {op : Nibble} {kk : Byte}
    (h : OpcodeRow.selects ⟨encXKK op 0 kk, 0xF0FF⟩ w = true) : encXKK op w.x kk = w :=
  have ⟨hop, hkk⟩ := op_kk_of_selects h
  encXKK_of_op_kk hop hkk

/-- A word that satisfies a row of the opcode map is the word of that row's instruction, with its operands read from the
word's fields: one instruction per row, in the map's order. -/
theorem encode_of_selects (w : Word) :
    ∀ r ∈ opcodeMap, r.selects w = true → ∃ i : Instr, encode i = w ∧ i.row = r := by
  simp only [opcodeMap, opcodeMapFirst, opcodeMapSecond, List.cons_append, List.nil_append, List.forall_mem_cons]
  exact ⟨
    fun h => ⟨.cls, eq_of_selects h, rfl⟩,
    fun h => ⟨.ret, eq_of_selects h, rfl⟩,
    fun h => ⟨.jpNnn w.nnn, encNNN_of_selects h, rfl⟩,
    fun h => ⟨.callNnn w.nnn, encNNN_of_selects h, rfl⟩,
    fun h => ⟨.seVxKk w.x w.kk, encXKK_of_selects h, rfl⟩,
    fun h => ⟨.sneVxKk w.x w.kk, encXKK_of_selects h, rfl⟩,
    fun h => ⟨.seVxVy w.x w.y, encXY_of_selects h, rfl⟩,
    fun h => ⟨.ldVxKk w.x w.kk, encXKK_of_selects h, rfl⟩,
    fun h => ⟨.addVxKk w.x w.kk, encXKK_of_selects h, rfl⟩,
    fun h => ⟨.ldVxVy w.x w.y, encXY_of_selects h, rfl⟩,
    fun h => ⟨.orVxVy w.x w.y, encXY_of_selects h, rfl⟩,
    fun h => ⟨.andVxVy w.x w.y, encXY_of_selects h, rfl⟩,
    fun h => ⟨.xorVxVy w.x w.y, encXY_of_selects h, rfl⟩,
    fun h => ⟨.addVxVy w.x w.y, encXY_of_selects h, rfl⟩,
    fun h => ⟨.subVxVy w.x w.y, encXY_of_selects h, rfl⟩,
    fun h => ⟨.shrVx w.x w.y, encXY_of_selects h, rfl⟩,
    fun h => ⟨.subnVxVy w.x w.y, encXY_of_selects h, rfl⟩,
    fun h => ⟨.shlVx w.x w.y, encXY_of_selects h, rfl⟩,
    fun h => ⟨.sneVxVy w.x w.y, encXY_of_selects h, rfl⟩,
    fun h => ⟨.ldINnn w.nnn, encNNN_of_selects h, rfl⟩,
    fun h => ⟨.jpV0Nnn w.nnn, encNNN_of_selects h, rfl⟩,
    fun h => ⟨.rndVxKk w.x w.kk, encXKK_of_selects h, rfl⟩,
    fun h => ⟨.drwVxVyN w.x w.y w.n, encXYN_of_selects h, rfl⟩,
    fun h => ⟨.skpVx w.x, encX_of_selects h, rfl⟩,
    fun h => ⟨.sknpVx w.x, encX_of_selects h, rfl⟩,
    fun h => ⟨.ldVxDt w.x, encX_of_selects h, rfl⟩,
    fun h => ⟨.ldVxK w.x, encX_of_selects h, rfl⟩,
    fun h => ⟨.ldDtVx w.x, encX_of_selects h, rfl⟩,
    fun h => ⟨.ldStVx w.x, encX_of_selects h, rfl⟩,
    fun h => ⟨.addIVx w.x, encX_of_selects h, rfl⟩,
    fun h => ⟨.ldFVx w.x, encX_of_selects h, rfl⟩,
    fun h => ⟨.ldBVx w.x, encX_of_selects h, rfl⟩,
    fun h => ⟨.ldMemIVx w.x, encX_of_selects h, rfl⟩,
    fun h => ⟨.ldVxMemI w.x, encX_of_selects h, rfl⟩,
    fun _ hr => absurd hr List.not_mem_nil⟩

/-- A word that satisfies a row decodes to an instruction of that row (R79). -/
theorem decodeWord_of_selects {w : Word} {r : OpcodeRow} (hr : r ∈ opcodeMap) (h : r.selects w = true) :
    ∃ i : Instr, decodeWord w = .ok i ∧ i.row = r := by
  obtain ⟨i, rfl, hi⟩ := encode_of_selects w r hr h
  exact ⟨i, decodeWord_encode i, hi⟩

/-- The only error of decoding a word names that word (R79). -/
theorem decodeWord_error {w : Word} {e : DecodeError} (h : decodeWord w = .error e) : e = .unknownOpcode w := by
  unfold decodeWord decodeOp0 decodeOp8 decodeOpE decodeOpF at h
  split at h
  case h_1 | h_9 | h_15 | h_16 => split at h <;> cases h; rfl
  case h_6 | h_10 => split at h <;> cases h; rfl
  case h_17 => cases h; rfl
  all_goals cases h

/-- Settles O3: the row of the decoded instruction is satisfied because the word is the instruction's, and any row that
is satisfied is the row of what the word decodes to. -/
theorem decodeFollowsOpcodeMap : Obligations.DecodeFollowsOpcodeMap := by
  refine fun w => ⟨fun i h => ⟨?own, fun r hr hs => ?only⟩, fun e h => ⟨decodeWord_error h, fun r hr => ?none⟩⟩
  case own => rw [← encode_of_decodeWord h]; exact selects_encode i
  case only =>
    obtain ⟨j, hj, rfl⟩ := decodeWord_of_selects hr hs
    rw [Except.ok.inj (h.symm.trans hj)]
  case none =>
    refine Bool.eq_false_iff.2 fun hs => ?_
    obtain ⟨j, hj, -⟩ := decodeWord_of_selects hr hs
    cases h.symm.trans hj

/-! ### The unknown words (R80), one lemma per table of the decoder -/

theorem decodeOp0_unknown_iff (w : Word) :
    decodeOp0 w = .error (.unknownOpcode w) ↔ w.toNat ≠ 0x00E0 ∧ w.toNat ≠ 0x00EE := by
  unfold decodeOp0
  split <;> simp_all

theorem decodeOp8_unknown_iff (w : Word) :
    decodeOp8 w = .error (.unknownOpcode w) ↔ w.toNat % 16 ∈ [0x8, 0x9, 0xA, 0xB, 0xC, 0xD, 0xF] := by
  unfold decodeOp8
  rw [Word.n_toNat]
  split
  case h_10 =>
    simp only [imp_false] at *
    simp; omega
  all_goals simp [*]

theorem decodeOpE_unknown_iff (w : Word) :
    decodeOpE w = .error (.unknownOpcode w) ↔ w.toNat % 256 ∉ [0x9E, 0xA1] := by
  unfold decodeOpE
  rw [Word.kk_toNat]
  split <;> simp_all

theorem decodeOpF_unknown_iff (w : Word) :
    decodeOpF w = .error (.unknownOpcode w) ↔
      w.toNat % 256 ∉ [0x07, 0x0A, 0x15, 0x18, 0x1E, 0x29, 0x33, 0x55, 0x65] := by
  unfold decodeOpF
  rw [Word.kk_toNat]
  split <;> simp_all

theorem n_eq_zero_iff (w : Word) : w.n = 0#4 ↔ w.toNat % 16 = 0 := by
  rw [← Word.n_toNat, ← BitVec.toNat_inj]
  rfl

/-- Settles O4: the top digit selects one line of the table, and the decoder's table for that digit says the rest. -/
theorem unknownWordsExactly : Obligations.UnknownWordsExactly := by
  intro w
  unfold decodeWord
  rw [Word.op_toNat]
  split
  case h_1 hop => simp [hop, decodeOp0_unknown_iff]
  case h_6 hop => simp [hop, n_eq_zero_iff]
  case h_9 hop => simp [hop, decodeOp8_unknown_iff]
  case h_10 hop => simp [hop, n_eq_zero_iff]
  case h_15 hop => simp [hop, decodeOpE_unknown_iff]
  case h_16 hop => simp [hop, decodeOpF_unknown_iff]
  case h_17 =>
    exfalso
    simp only [imp_false] at *
    have := w.isLt; omega
  all_goals simp [*]

/-- Settles O5: each word is the encoding of its instruction. -/
theorem sampleWordsDecode : Obligations.SampleWordsDecode :=
  ⟨wordIs_of_encode rfl, wordIs_of_encode rfl, wordIs_of_encode rfl, wordIs_of_encode rfl, wordIs_of_encode rfl,
    wordIs_of_encode rfl, wordIs_of_encode rfl⟩

end Sys2Proof.Machine
end

section
/-! PROOFS. Frames: each update of the state changes one part, frames compose, and every instruction that answers a next
state commits an update whose frame is the list `Instr.writes`. -/

namespace Sys2Proof.Machine

variable {s t u : State} {ps qs : List Part}

/-! ### Frames in general -/

/-- A frame, part by part. -/
theorem State.changesOnly_iff : s.changesOnly t ps ↔
    (.regs ∉ ps → ∀ r, t.reg r = s.reg r) ∧ (.index ∉ ps → t.index = s.index) ∧ (.pc ∉ ps → t.pc = s.pc) ∧
    (.stack ∉ ps → ∀ k, t.slot k = s.slot k) ∧ (.sp ∉ ps → t.sp = s.sp) ∧ (.dt ∉ ps → t.dt = s.dt) ∧
    (.st ∉ ps → t.st = s.st) ∧ (.keys ∉ ps → ∀ k, t.key k = s.key k) ∧
    (.fb ∉ ps → ∀ py px, t.fb.pixel py px = s.fb.pixel py px) ∧ (.mem ∉ ps → ∀ a, t.mem.read a = s.mem.read a) ∧
    (.opc ∉ ps → t.opc = s.opc) ∧ (.wait ∉ ps → t.wait = s.wait) ∧ (.draws ∉ ps → t.draws = s.draws) := by
  constructor
  · exact fun h => ⟨h .regs, h .index, h .pc, h .stack, h .sp, h .dt, h .st, h .keys, h .fb, h .mem, h .opc, h .wait,
      h .draws⟩
  · rintro ⟨hregs, hindex, hpc, hstack, hsp, hdt, hst, hkeys, hfb, hmem, hopc, hwait, hdraws⟩ p
    cases p <;> assumption

theorem Part.same_trans {p : Part} (h : p.same s t) (h' : p.same t u) : p.same s u := by
  cases p with
  | regs | stack | keys | mem => exact fun k => (h' k).trans (h k)
  | fb => exact fun py px => (h' py px).trans (h py px)
  | index | pc | sp | dt | st | opc | wait | draws => exact Eq.trans h' h

theorem State.changesOnly.trans (h : s.changesOnly t ps) (h' : t.changesOnly u qs) : s.changesOnly u (ps ++ qs) :=
  fun p hp =>
    have ⟨hps, hqs⟩ := not_or.1 (List.mem_append.not.1 hp)
    Part.same_trans (h p hps) (h' p hqs)

theorem State.changesOnly.mono (h : s.changesOnly t ps) (hsub : ps ⊆ qs) : s.changesOnly t qs :=
  fun p hp => h p fun hps => hp (hsub hps)

/-! ### One update, one part -/

variable (s)

theorem State.changesOnly_refl : s.changesOnly s [] := by simp [State.changesOnly_iff]

theorem State.changesOnly_setReg (x : Reg) (b : Byte) : s.changesOnly (s.setReg x b) [.regs] := by
  simp [State.changesOnly_iff]

theorem State.changesOnly_setWithFlag (x : Reg) (b : Byte) (c : Bool) :
    s.changesOnly (s.setWithFlag x b c) [.regs] := by simp [State.changesOnly_iff]

theorem State.changesOnly_loadRegs (x : Reg) : s.changesOnly (s.loadRegs x) [.regs] := by
  simp [State.changesOnly_iff]

theorem State.changesOnly_setIndex (w : Word) : s.changesOnly (s.setIndex w) [.index] := by
  simp [State.changesOnly_iff]

theorem State.changesOnly_setDt (b : Byte) : s.changesOnly (s.setDt b) [.dt] := by simp [State.changesOnly_iff]

theorem State.changesOnly_setSt (b : Byte) : s.changesOnly (s.setSt b) [.st] := by simp [State.changesOnly_iff]

theorem State.changesOnly_setMem (m : Memory) : s.changesOnly (s.setMem m) [.mem] := by
  simp [State.changesOnly_iff]

theorem State.changesOnly_setFb (f : Framebuffer) : s.changesOnly (s.setFb f) [.fb] := by
  simp [State.changesOnly_iff]

theorem State.changesOnly_drawn : s.changesOnly s.drawn [.draws] := by simp [State.changesOnly_iff]

theorem State.changesOnly_pop : s.changesOnly s.pop [.sp] := by simp [State.changesOnly_iff]

theorem State.changesOnly_push (w : Word) : s.changesOnly (s.push w) [.stack, .sp] := by
  simp [State.changesOnly_iff]

theorem State.changesOnly_latch (w : Word) : s.changesOnly (s.latch w) [.opc] := by simp [State.changesOnly_iff]

theorem State.changesOnly_commit (p : Word) : s.changesOnly (s.commit p) [.pc, .wait] := by
  simp [State.changesOnly_iff]

theorem State.changesOnly_awaitKey : s.changesOnly s.awaitKey [.wait] := by simp [State.changesOnly_iff]

/-- The drawing half and the flag of Dxyn (R161). -/
theorem State.changesOnly_setFb_setReg (f : Framebuffer) (x : Reg) (b : Byte) :
    s.changesOnly ((s.setFb f).setReg x b) [.regs, .fb] :=
  ((s.changesOnly_setFb f).trans (State.changesOnly_setReg _ x b)).mono (by simp)

/-- The register write and the draw of Cxkk (R118). -/
theorem State.changesOnly_setReg_drawn (x : Reg) (b : Byte) :
    s.changesOnly (s.setReg x b).drawn [.regs, .draws] :=
  (s.changesOnly_setReg x b).trans (State.changesOnly_drawn _)

variable {s}

/-- The frame of an update that is then committed (R97). -/
theorem State.changesOnly.commit (h : s.changesOnly u ps) (p : Word) :
    s.changesOnly (u.commit p) (ps ++ [.pc, .wait]) := h.trans (u.changesOnly_commit p)

end Sys2Proof.Machine
end

section
/-! PROOFS. Everything an instruction can do: an inversion lemma for a next state, a fault and a refusal each. -/

namespace Sys2Proof.Machine

/-- Where an instruction may put the program counter (R92, R125 to R129). -/
def Targets (i : Instr) (s : State) (p : Word) : Prop :=
  match i with
  | .ret => 1 ≤ s.sp.toNat ∧ p = s.top
  | .jpNnn nnn => p = addrWord nnn
  | .callNnn nnn => p = addrWord nnn
  | .jpV0Nnn nnn => p = addrWord nnn + byteWord (s.reg 0)
  | _ => p = s.npc ∨ p = s.npc + 2

/-- An instruction that commits: from `s` it makes the update `u` and sets `pc` to `p`. -/
structure Commits (i : Instr) (s u : State) (p : Word) : Prop where
  frame : s.changesOnly u i.writes
  target : Targets i s p
  memory : s.mem.wf = true → u.mem.wf = true

variable {i : Instr} {s t : State}

theorem skipIf_target (c : Bool) : (if c then s.npc + 2 else s.npc) = s.npc ∨
    (if c then s.npc + 2 else s.npc) = s.npc + 2 := by
  cases c <;> simp

/-- A store of `n + 1` bytes that passed the bound check keeps the canonical form (R60). -/
theorem State.wf_store {us : List Byte} {n : Nat} (hm : s.mem.wf = true)
    (hr : n + 1 = 0 ∨ s.ea (n + 1 - 1) < 4096) (hl : us.length = n + 1) :
    (s.mem.writeList (s.ea 0) us).wf = true := by
  refine Memory.wf_writeList us hm ?_
  simp only [State.ea, Config.memSize] at *
  omega

/-- Everything an instruction with a next state can do (R90, R95, R97): wait for a key, or commit an update of the parts
it may write. -/
theorem exec_next (h : exec i s = .next t) :
    ((∃ x, i = .ldVxK x) ∧ s.lowestKey = none ∧ t = s.awaitKey) ∨ ∃ u p, t = u.commit p ∧ Commits i s u p := by
  cases i with
  | cls => cases h; exact .inr ⟨_, _, rfl, s.changesOnly_setFb _, .inl rfl, id⟩
  | ret =>
    obtain ⟨hsp, -, rfl⟩ := execRet_next h
    exact .inr ⟨_, _, rfl, s.changesOnly_pop, ⟨hsp, rfl⟩, id⟩
  | callNnn nnn =>
    obtain ⟨-, rfl⟩ := execCallNnn_next h
    exact .inr ⟨_, _, rfl, s.changesOnly_push _, rfl, id⟩
  | jpNnn | jpV0Nnn => cases h; exact .inr ⟨_, _, rfl, s.changesOnly_refl, rfl, id⟩
  | seVxKk | sneVxKk | seVxVy | sneVxVy =>
    cases h; exact .inr ⟨_, _, rfl, s.changesOnly_refl, skipIf_target _, id⟩
  | skpVx | sknpVx =>
    simp only [exec_skpVx, exec_sknpVx] at h
    obtain ⟨k, -, rfl⟩ := State.withKey_next h
    exact .inr ⟨_, _, rfl, s.changesOnly_refl, skipIf_target _, id⟩
  | ldVxKk | addVxKk | ldVxVy | orVxVy | andVxVy | xorVxVy | ldVxDt =>
    cases h; exact .inr ⟨_, _, rfl, s.changesOnly_setReg _ _, .inl rfl, id⟩
  | addVxVy | subVxVy | shrVx | subnVxVy | shlVx =>
    cases h; exact .inr ⟨_, _, rfl, s.changesOnly_setWithFlag _ _ _, .inl rfl, id⟩
  | rndVxKk => cases h; exact .inr ⟨_, _, rfl, s.changesOnly_setReg_drawn _ _, .inl rfl, id⟩
  | ldINnn | addIVx | ldFVx => cases h; exact .inr ⟨_, _, rfl, s.changesOnly_setIndex _, .inl rfl, id⟩
  | ldDtVx => cases h; exact .inr ⟨_, _, rfl, s.changesOnly_setDt _, .inl rfl, id⟩
  | ldStVx => cases h; exact .inr ⟨_, _, rfl, s.changesOnly_setSt _, .inl rfl, id⟩
  | drwVxVyN x y n =>
    obtain ⟨-, rfl⟩ := State.access_next h
    exact .inr ⟨_, _, rfl, s.changesOnly_setFb_setReg _ _ _, .inl rfl, id⟩
  | ldVxMemI =>
    obtain ⟨-, rfl⟩ := State.access_next h
    exact .inr ⟨_, _, rfl, s.changesOnly_loadRegs _, .inl rfl, fun hm => by rwa [State.loadRegs_mem]⟩
  | ldBVx x =>
    obtain ⟨hr, rfl⟩ := State.access_next h
    exact .inr ⟨_, _, rfl, s.changesOnly_setMem _, .inl rfl, fun hm => State.wf_store hm hr rfl⟩
  | ldMemIVx x =>
    obtain ⟨hr, rfl⟩ := State.access_next h
    exact .inr ⟨_, _, rfl, s.changesOnly_setMem _, .inl rfl, fun hm => State.wf_store hm hr (s.length_regsUpTo x)⟩
  | ldVxK x =>
    rw [exec_ldVxK] at h
    split at h
    case h_1 hk => cases h; exact .inl ⟨⟨x, rfl⟩, hk, rfl⟩
    case h_2 => cases h; exact .inr ⟨_, _, rfl, s.changesOnly_setReg _ _, .inl rfl, id⟩

end Sys2Proof.Machine
end

section
/-! PROOFS. When an instruction and a step fail, and when they are refused (R170 to R179). -/

namespace Sys2Proof.Machine

variable {i : Instr} {s : State} {f g : Fault} {r : Refusal}

theorem ite_some_eq_some_iff {c : Prop} [Decidable c] : (if c then some g else none) = some f ↔ c ∧ f = g := by
  split <;> simp_all [eq_comm]

theorem ite_raise_eq_fault_iff {c : Prop} [Decidable c] {t : State} :
    (if c then raise g else .next t) = .fault f ↔ c ∧ f = g := by
  split <;> simp_all [raise, eq_comm]

theorem State.withLegalSp_fault_iff {a : Result} : s.withLegalSp a = .fault f ↔ s.sp.toNat ≤ 16 ∧ a = .fault f := by
  unfold State.withLegalSp
  split <;> simp_all

theorem State.withLegalSp_refused_iff {a : Result} (ha : a ≠ .refused r) :
    s.withLegalSp a = .refused r ↔ 16 < s.sp.toNat ∧ r = .stackPointerRange s.sp := by
  unfold State.withLegalSp
  split <;> simp_all [eq_comm]

/-- 00EE fails exactly on an empty stack (R174). -/
theorem execRet_fault_iff : execRet s = .fault f ↔ s.sp = 0 ∧ f = .stackUnderflow s.pc s.opc := by
  rw [execRet, State.withLegalSp_fault_iff, ite_raise_eq_fault_iff]
  exact and_iff_right_of_imp fun h => by rw [h.1]; decide

/-- 2nnn fails exactly on a full stack (R173). -/
theorem execCallNnn_fault_iff {nnn : Addr} :
    execCallNnn nnn s = .fault f ↔ s.sp = 16 ∧ f = .stackOverflow s.pc s.opc := by
  have hfull : s.sp = 16 ↔ s.sp.toNat ≤ 16 ∧ 16 ≤ s.sp.toNat := by
    rw [← BitVec.toNat_inj, Nat.le_antisymm_iff]; rfl
  rw [execCallNnn, State.withLegalSp_fault_iff, ite_raise_eq_fault_iff, hfull, and_assoc]

/-- An access of `k + 1` bytes fails exactly when its last byte is outside memory (R60, R172). -/
theorem State.access_succ_fault_iff {t : State} {k : Nat} :
    s.access (k + 1) t = .fault f ↔
      (if 4096 ≤ s.index.toNat + k then some (.memoryOverrun s.pc (some s.opc) (s.index.toNat + k)) else none)
        = some f := by
  rw [State.access_fault_iff, ite_some_eq_some_iff]
  exact and_iff_right (Nat.succ_pos k)

/-- An instruction fails exactly with its own error of the table of R178. -/
theorem exec_fault_iff : exec i s = .fault f ↔ i.ownFault s = some f := by
  cases i with
  | ret => exact execRet_fault_iff.trans ite_some_eq_some_iff.symm
  | callNnn => exact execCallNnn_fault_iff.trans ite_some_eq_some_iff.symm
  | skpVx x => rw [exec_skpVx, State.withKey_fault_iff]; exact ite_some_eq_some_iff.symm
  | sknpVx x => rw [exec_sknpVx, State.withKey_fault_iff]; exact ite_some_eq_some_iff.symm
  | drwVxVyN x y n =>
    rw [exec_drwVxVyN, State.access_fault_iff, Instr.ownFault, ite_some_eq_some_iff, and_assoc]
    exact and_congr_right fun hn => by rw [Nat.add_sub_assoc hn]; rfl
  | ldBVx | ldMemIVx | ldVxMemI => exact State.access_succ_fault_iff
  | ldVxK x => rw [exec_ldVxK]; split <;> exact ⟨nofun, nofun⟩
  | cls | jpNnn | jpV0Nnn | seVxKk | sneVxKk | seVxVy | sneVxVy | ldVxKk | addVxKk | ldVxVy | orVxVy | andVxVy | xorVxVy
  | addVxVy | subVxVy | shrVx | subnVxVy | shlVx | rndVxKk | ldINnn | addIVx | ldFVx | ldVxDt | ldDtVx | ldStVx =>
    exact ⟨nofun, nofun⟩

/-- Only 00EE and 2nnn are refused, with `SP` above 16 (log entry 6). -/
theorem exec_refused_iff : exec i s = .refused r ↔
    16 < s.sp.toNat ∧ r = .stackPointerRange s.sp ∧ (i = .ret ∨ ∃ nnn, i = .callNnn nnn) := by
  cases i with
  | ret =>
    rw [exec_ret, State.withLegalSp_refused_iff (by split <;> nofun)]
    simp
  | callNnn nnn =>
    rw [exec_callNnn, State.withLegalSp_refused_iff (by split <;> nofun)]
    simp
  | skpVx | sknpVx => simp [exec_skpVx, exec_sknpVx, State.withKey_not_refused]
  | drwVxVyN | ldBVx | ldMemIVx | ldVxMemI =>
    simp [exec_drwVxVyN, exec_ldBVx, exec_ldMemIVx, exec_ldVxMemI, State.access_not_refused]
  | ldVxK x => rw [exec_ldVxK]; split <;> simp
  | cls | jpNnn | jpV0Nnn | seVxKk | sneVxKk | seVxVy | sneVxVy | ldVxKk | addVxKk | ldVxVy | orVxVy | andVxVy | xorVxVy
  | addVxVy | subVxVy | shrVx | subnVxVy | shlVx | rndVxKk | ldINnn | addIVx | ldFVx | ldVxDt | ldDtVx | ldStVx =>
    exact ⟨nofun, fun h => by simp at h⟩

end Sys2Proof.Machine
end

section
/-! PROOFS. The step (40_step_cycle.md), and the errors and refusals of a step (60_exceptions.md). -/

namespace Sys2Proof.Machine

variable {s t : State} {f : Fault}

/-- Settles O6: a fetch inside memory gives the two bytes' word, and dispatch runs what it decodes to. -/
theorem stepRunsDecodedInstruction : Obligations.StepRunsDecodedInstruction := fun _ _ h hd => step_of_decoded h hd

/-- Settles O7: the fetch succeeds exactly below 4095, with the word of the two bytes. -/
theorem fetchReadsTwoBytesOrFaults : Obligations.FetchReadsTwoBytesOrFaults :=
  fun s => ⟨step_of_ge, fun h => ⟨s.fetchWord, State.fetch_of_lt h, wordOfBytes_toNat _ _⟩⟩

/-- A step fails exactly with the first error of the table of R178, in the order of R179, whatever `SP` is. -/
theorem step_fault_iff : step s = .fault f ↔ s.stepFault = some f := by
  unfold State.stepFault
  rcases step_cases s with ⟨hge, h⟩ | ⟨hlt, ⟨e, he⟩, h⟩ | ⟨hlt, i, hi, h⟩
  · rw [h, if_pos (by omega)]; simp
  · rw [h, if_neg (by omega), he]; simp
  · rw [h, if_neg (by omega), hi]; exact exec_fault_iff

/-- Settles O11: `step_fault_iff`, of which the bound on `SP` is no part. -/
theorem stepFaultsExactly : Obligations.StepFaultsExactly := fun _ _ _ => step_fault_iff

/-- Settles O12: only an instruction that ran can be refused, and `exec_refused_iff` says which. -/
theorem stepRefusesOnlyIllegalStackPointer : Obligations.StepRefusesOnlyIllegalStackPointer := by
  intro s r
  rcases step_cases s with ⟨hge, h⟩ | ⟨hlt, ⟨e, he⟩, h⟩ | ⟨hlt, i, hi, h⟩
  · rw [h]; simp; omega
  · simp [h, he]
  · simp [h, hi, hlt, exec_refused_iff]

/-- No instruction raises the error of dispatch by itself. -/
theorem ownFault_ne_unknownOpcode (i : Instr) (s : State) (p w : Word) :
    i.ownFault s ≠ some (.unknownOpcode p w) := by
  cases i <;> simp [Instr.ownFault]

/-- Settles O8: an undecodable word fails at dispatch, and no fetch and no instruction fails so. -/
theorem unknownWordFaults : Obligations.UnknownWordFaults := by
  intro s w hw
  obtain ⟨hlt, rfl⟩ := State.fetch_ok hw
  rcases step_cases s with ⟨hge, -⟩ | ⟨-, ⟨e, he⟩, h⟩ | ⟨-, i, hi, h⟩
  · omega
  · simp [h, he, eq_comm]
  · refine ⟨fun hno => absurd hi (hno i), fun p u hf => ?_⟩
    rw [h, exec_fault_iff] at hf
    exact (ownFault_ne_unknownOpcode _ _ _ _ hf).elim

/-! ### A failing step and the events `TICK` and `KEYS` (R181) -/

/-- An instruction's own error depends on the registers, `I`, `pc`, `SP` and the opcode latch only. -/
theorem ownFault_congr {i : Instr} (hreg : ∀ r, t.reg r = s.reg r) (hindex : t.index = s.index) (hpc : t.pc = s.pc)
    (hsp : t.sp = s.sp) (hopc : t.opc = s.opc) : i.ownFault t = i.ownFault s := by
  cases i <;> simp only [Instr.ownFault, hreg, hindex, hpc, hsp, hopc]

/-- An event that changes neither memory nor what an instruction's error depends on leaves a step's error as it was. -/
theorem step_fault_congr (hreg : ∀ r, t.reg r = s.reg r) (hindex : t.index = s.index) (hpc : t.pc = s.pc)
    (hsp : t.sp = s.sp) (hmem : t.mem = s.mem) (h : step s = .fault f) : step t = .fault f := by
  have hw : t.fetchWord = s.fetchWord := by rw [State.fetchWord, hmem, hpc, State.fetchWord]
  have hown (i : Instr) : i.ownFault (t.latch s.fetchWord) = i.ownFault (s.latch s.fetchWord) :=
    ownFault_congr hreg hindex hpc hsp rfl
  rw [step_fault_iff] at *
  simpa only [State.stepFault, hw, hpc, hown] using h

/-- Settles O13: neither event changes a register, `I`, `pc`, `SP` or memory. -/
theorem tickAndKeysCureNoFault : Obligations.TickAndKeysCureNoFault := fun s _ h =>
  ⟨step_fault_congr (s := s) (t := Events.tick s) (fun _ => rfl) rfl rfl rfl rfl h,
    fun k => step_fault_congr (Events.keys_reg s k) (Events.keys_index s k) (Events.keys_pc s k) (Events.keys_sp s k)
      (Events.keys_mem s k) h⟩

/-- The results that report an error or a refusal. -/
def EventResult.Failed (a : EventResult) : Prop :=
  (∃ f, a = .err f) ∨ (∃ e, a = .hostErr e) ∨ ∃ r, a = .refused r

theorem EventResult.not_failed_ok : ¬ EventResult.ok.Failed := by simp [EventResult.Failed]

/-- A `STEP` that reports an error or a refusal leaves the state (R180). -/
theorem Events.step_failed : (Events.step s).1.Failed → (Events.step s).2 = s := by
  unfold Events.step
  split
  case h_1 t _ => cases t.wait <;> simp [EventResult.Failed]
  case h_2 | h_3 => exact fun _ => rfl

/-- A `POKE` that reports an error or a refusal leaves the state (R190). -/
theorem Events.poke_failed {p : Poke} : (Events.poke p s).1.Failed → (Events.poke p s).2 = s := by
  cases p with
  | reg | mem | sp =>
    dsimp only [Events.poke]
    split
    · exact fun h => (EventResult.not_failed_ok h).elim
    · exact fun _ => rfl
  | key | pixel | pc | index | slot | dt | st => exact fun h => (EventResult.not_failed_ok h).elim

/-- A `LOAD` that reports an error leaves the state (R205). -/
theorem Events.load_failed {font : Font} {bytes : List Byte} :
    (Events.apply font (.load bytes) s).1.Failed → (Events.apply font (.load bytes) s).2 = s := by
  dsimp only [Events.apply]
  split
  · exact fun h => (EventResult.not_failed_ok h).elim
  · exact fun _ => rfl

/-- Settles O10: an event that can report an error or a refusal returns the state it was given where it does. -/
theorem failingEventChangesNothing : Obligations.FailingEventChangesNothing := by
  intro font e s h
  cases e with
  | reset | tick | keys => exact (EventResult.not_failed_ok h).elim
  | peek => rfl
  | load bytes => exact Events.load_failed h
  | step => exact Events.step_failed h
  | poke p => exact Events.poke_failed h

end Sys2Proof.Machine
end

section
/-! PROOFS. What a step leaves unchanged: the frames of all instructions, the opcode latch, `WAIT` and the random
source. -/

namespace Sys2Proof.Machine

variable {i : Instr} {s t : State}

/-- What an instruction may write, with `pc` and `WAIT`, is its whole frame (R21, R54). -/
theorem exec_changesOnly (h : exec i s = .next t) : s.changesOnly t (i.writes ++ [.pc, .wait]) := by
  rcases exec_next h with ⟨-, -, rfl⟩ | ⟨u, p, rfl, hc⟩
  · exact s.changesOnly_awaitKey.mono (by simp)
  · exact hc.frame.commit p

/-- Settles O16: the latch changes `OPC`, and the instruction's own frame says the rest. -/
theorem stepChangesOnlyListedParts : Obligations.StepChangesOnlyListedParts := by
  intro s t i h hi
  obtain ⟨-, j, hj, hx⟩ := step_next h
  obtain rfl : j = i := Except.ok.inj (hj.symm.trans hi)
  exact ((s.changesOnly_latch _).trans (exec_changesOnly hx)).mono (by simp)

theorem opc_notMem_writes (i : Instr) : .opc ∉ i.writes := by cases i <;> simp [Instr.writes]

theorem keys_notMem_writes (i : Instr) : .keys ∉ i.writes := by cases i <;> simp [Instr.writes]

/-- No instruction writes the opcode latch by itself (R97). -/
theorem exec_opc (h : exec i s = .next t) : t.opc = s.opc :=
  exec_changesOnly h .opc (by simp [opc_notMem_writes])

/-- No step changes a key flag (R184). -/
theorem step_key (h : step s = .next t) (k : Fin 16) : t.key k = s.key k := by
  obtain ⟨-, i, -, hx⟩ := step_next h
  exact exec_changesOnly hx .keys (by simp [keys_notMem_writes]) k

/-- An instruction leaves `WAIT` set exactly when it is Fx0A with no key pressed (R97, R152). -/
theorem exec_wait_iff (h : exec i s = .next t) :
    t.wait = true ↔ (∃ x, i = .ldVxK x) ∧ ∀ k, s.key k = false := by
  rw [← s.lowestKey_eq_none_iff]
  rcases exec_next h with ⟨hi, hk, rfl⟩ | ⟨u, p, rfl, -⟩
  · simp [hi, hk]
  · refine ⟨nofun, ?_⟩
    rintro ⟨⟨x, rfl⟩, hk⟩
    rw [exec_ldVxK, hk] at h
    exact (congrArg State.wait (Host.Outcome.next.inj h)).symm

/-- An instruction that leaves `WAIT` set changed nothing else (R152). -/
theorem exec_eq_awaitKey (h : exec i s = .next t) (hw : t.wait = true) : t = s.awaitKey := by
  rcases exec_next h with ⟨-, -, rfl⟩ | ⟨u, p, rfl, -⟩
  · rfl
  · exact absurd hw Bool.false_ne_true

/-- Settles O9: the latch is set before the instruction runs and no instruction writes it; `exec_wait_iff` is `WAIT`. -/
theorem stepLatchesOpcodeAndWait : Obligations.StepLatchesOpcodeAndWait := by
  intro s t h
  obtain ⟨-, i, hi, hx⟩ := step_next h
  refine ⟨exec_opc hx, ?_, fun hw => exec_eq_awaitKey hx hw⟩
  rw [exec_wait_iff hx, hi]
  simp

/-- Settles O14: the latch overwrites `OPC`, and every next state overwrites `WAIT`. -/
theorem latchAndWaitAreNeverRead : Obligations.LatchAndWaitAreNeverRead := fun _ _ _ => rfl

/-! ### The random source (R118) -/

/-- An outcome with its next state, if it has one, changed. -/
def Result.mapNext (g : State → State) : Result → Result
  | .next t => .next (g t)
  | .fault f => .fault f
  | .refused r => .refused r

theorem Result.mapNext_ite (g : State → State) {c : Prop} [Decidable c] (a b : Result) :
    Result.mapNext g (if c then a else b) = if c then Result.mapNext g a else Result.mapNext g b := apply_ite ..

theorem Result.mapNext_dite (g : State → State) {c : Prop} [Decidable c] (a : c → Result) (b : ¬ c → Result) :
    Result.mapNext g (dite c a b) = if h : c then Result.mapNext g (a h) else Result.mapNext g (b h) := apply_dite ..

/-- The state with another count of draws. -/
def State.withDraws (s : State) (d : Nat) : State := { s with draws := d }

variable (d : Nat)

theorem State.access_withDraws (n : Nat) : (s.withDraws d).access n (t.withDraws d) =
    Result.mapNext (·.withDraws d) (s.access n t) := by
  rw [State.access, State.access, Result.mapNext_ite]; rfl

theorem State.withKey_withDraws (u : Byte) (g : Fin 16 → State) :
    (s.withDraws d).withKey u (fun k => (g k).withDraws d) = Result.mapNext (·.withDraws d) (s.withKey u g) := by
  rw [State.withKey, State.withKey, Result.mapNext_dite]; rfl

theorem State.withLegalSp_withDraws (a : Result) :
    (s.withDraws d).withLegalSp (Result.mapNext (·.withDraws d) a) =
      Result.mapNext (·.withDraws d) (s.withLegalSp a) := by
  rw [State.withLegalSp, State.withLegalSp, Result.mapNext_ite]; rfl

/-- Every instruction but Cxkk carries the count of draws along (R90, R99). -/
theorem exec_withDraws (h : ∀ x kk, i ≠ .rndVxKk x kk) :
    exec i (s.withDraws d) = Result.mapNext (·.withDraws d) (exec i s) := by
  cases i with
  | rndVxKk x kk => exact absurd rfl (h x kk)
  | cls | jpNnn | jpV0Nnn | seVxKk | sneVxKk | seVxVy | sneVxVy | ldVxKk | addVxKk | ldVxVy | orVxVy | andVxVy | xorVxVy
  | addVxVy | subVxVy | shrVx | subnVxVy | shlVx | ldINnn | addIVx | ldFVx | ldVxDt | ldDtVx | ldStVx => rfl
  | drwVxVyN => rw [exec_drwVxVyN s, ← State.access_withDraws]; rfl
  | ldBVx => rw [exec_ldBVx s, ← State.access_withDraws]; rfl
  | ldMemIVx => rw [exec_ldMemIVx s, ← State.access_withDraws]; rfl
  | ldVxMemI => rw [exec_ldVxMemI s, ← State.access_withDraws]; rfl
  | skpVx => rw [exec_skpVx s, ← State.withKey_withDraws]; rfl
  | sknpVx => rw [exec_sknpVx s, ← State.withKey_withDraws]; rfl
  | ret => rw [exec_ret s, ← State.withLegalSp_withDraws, Result.mapNext_ite]; rfl
  | callNnn => rw [exec_callNnn s, ← State.withLegalSp_withDraws, Result.mapNext_ite]; rfl
  | ldVxK =>
    have hk : (s.withDraws d).lowestKey = s.lowestKey := rfl
    rw [exec_ldVxK, exec_ldVxK, hk]
    cases s.lowestKey <;> rfl

/-- Settles O15: `exec_withDraws`, read for each of the three outcomes. -/
theorem randomByteOnlyForRnd : Obligations.RandomByteOnlyForRnd := by
  intro i s d hi
  have hd := exec_withDraws (s := s) d hi
  refine ⟨fun t h => ?_, fun f h => ?_, fun r h => ?_⟩ <;> rw [h] at hd <;> exact hd

end Sys2Proof.Machine
end

section
/-! PROOFS. The invariant of R40: every step and every event but `POKE` keeps it. -/

namespace Sys2Proof.Machine

variable {i : Instr} {s t : State}

/-- The part of the invariant about the stack (R29, R126, R127). -/
def State.StackInv (s : State) : Prop :=
  s.sp.toNat ≤ 16 ∧ ∀ k, k < s.sp.toNat → 2 ≤ (s.slot k).toNat ∧ (s.slot k).toNat ≤ 0x1000

theorem State.inv_iff : s.Inv ↔ s.mem.wf = true ∧ s.StackInv ∧ s.pc.toNat ≤ 0x10FE := by
  simp only [State.Inv, State.StackInv, and_assoc]

/-- States with the same stack and `SP` agree on the stack's part of the invariant. -/
theorem State.StackInv.congr (h : s.StackInv) (hsp : t.sp = s.sp) (hslot : ∀ k, t.slot k = s.slot k) : t.StackInv := by
  unfold State.StackInv at *
  simpa only [hsp, hslot] using h

theorem State.npc_toNat (h : s.pc.toNat + 1 < 4096) : s.npc.toNat = s.pc.toNat + 2 := by
  exact BitVec.toNat_add_of_lt (by simp; omega)

theorem State.pop_sp_toNat (h : 1 ≤ s.sp.toNat) : s.pop.sp.toNat + 1 = s.sp.toNat := by
  have hsub : (s.sp - 1).toNat = s.sp.toNat - 1 := BitVec.toNat_sub_of_le (by simpa [BitVec.le_def] using h)
  rw [State.pop_sp, hsub]; omega

theorem State.push_sp_toNat (u : Word) (h : s.sp.toNat ≤ 15) : (s.push u).sp.toNat = s.sp.toNat + 1 :=
  BitVec.toNat_add_of_lt (by simp; omega)

/-- 2nnn from a fetched state keeps the stack's part: the slot it fills holds 2 to 0x1000 (R127). -/
theorem State.StackInv.push (h : s.StackInv) (hpc : s.pc.toNat + 1 < 4096) (hsp : s.sp.toNat ≤ 15) :
    (s.push s.npc).StackInv := by
  obtain ⟨-, hslot⟩ := h
  have hnpc := State.npc_toNat hpc
  have hsp' := State.push_sp_toNat s.npc hsp
  refine ⟨by omega, fun k hk => ?_⟩
  rw [s.slot_push _ _ (by omega)]
  split
  · omega
  · exact hslot k (by omega)

/-- 00EE keeps the stack's part: fewer slots are in use (R126). -/
theorem State.StackInv.pop (h : s.StackInv) (hsp : 1 ≤ s.sp.toNat) : s.pop.StackInv := by
  obtain ⟨hle, hslot⟩ := h
  have hsp' := State.pop_sp_toNat hsp
  refine ⟨by omega, fun k hk => ?_⟩
  exact hslot k (by omega)

/-- Only a call and a return write the stack pointer or a slot. -/
theorem exec_stackInv (h : exec i s = .next t) (hpc : s.pc.toNat + 1 < 4096) (hs : s.StackInv) : t.StackInv := by
  cases i with
  | ret =>
    obtain ⟨h1, -, rfl⟩ := execRet_next h
    exact (hs.pop h1).congr rfl fun _ => rfl
  | callNnn =>
    obtain ⟨h15, rfl⟩ := execCallNnn_next h
    exact (hs.push hpc h15).congr rfl fun _ => rfl
  | _ =>
    have hf := exec_changesOnly h
    exact hs.congr (hf .sp (by simp [Instr.writes])) (hf .stack (by simp [Instr.writes]))

/-- Every target of an instruction from a fetched state is at most 0x10FE: the largest is `0xFFF + 0xFF` (R24, R129). -/
theorem targets_le (hpc : s.pc.toNat + 1 < 4096) (hs : s.StackInv) {p : Word} (h : Targets i s p) :
    p.toNat ≤ 0x10FE := by
  have hnpc := State.npc_toNat hpc
  cases i with
  | ret =>
    obtain ⟨hsp, rfl⟩ := h
    have := hs.2 (s.sp.toNat - 1) (by omega)
    rw [State.top]; omega
  | jpNnn nnn | callNnn nnn => cases h; rw [addrWord_toNat]; omega
  | jpV0Nnn nnn => cases h; rw [BitVec.toNat_add, addrWord_toNat, byteWord_toNat]; omega
  | _ =>
    rcases h with rfl | rfl
    · omega
    · rw [BitVec.toNat_add]; simp; omega

theorem exec_inv (h : exec i s = .next t) (hpc : s.pc.toNat + 1 < 4096) (hs : s.Inv) : t.Inv := by
  rw [State.inv_iff] at *
  obtain ⟨hm, hst, hle⟩ := hs
  refine ⟨?_, exec_stackInv h hpc hst, ?_⟩ <;> rcases exec_next h with ⟨-, -, rfl⟩ | ⟨u, p, rfl, hc⟩
  · exact hm
  · exact hc.memory hm
  · exact hle
  · exact targets_le hpc hst hc.target

/-- Settles O48: the latch touches no part of the invariant, and the instruction keeps it. -/
theorem stepKeepsInvariant : Obligations.StepKeepsInvariant := by
  intro s t hs h
  obtain ⟨hpc, i, -, hx⟩ := step_next h
  exact exec_inv hx hpc hs

/-- Settles O47: memory after reset lists no cell, and no slot is in use. -/
theorem resetMeetsInvariant : Obligations.ResetMeetsInvariant :=
  ⟨Memory.wf_reset, by decide, fun _ hk => absurd hk (Nat.not_lt_zero _), by decide⟩

end Sys2Proof.Machine
end

section
/-! PROOFS. The ALU family (41_alu.md): instructions that write a result and a flag, and the random byte. -/

namespace Sys2Proof.Machine

variable (s : State) (x : Reg) (a b u : Byte) (c : Bool)

/-- The frame of an instruction that writes a result and its flag and goes on to the next instruction (R97, R106). -/
theorem State.setWithFlag_commit_frame :
    s.keepsRegs ((s.setWithFlag x u c).commit s.npc) [x, 15] ∧
      ((s.setWithFlag x u c).commit s.npc).okAt (s.pc + 2) ∧
      s.changesOnly ((s.setWithFlag x u c).commit s.npc) [.regs, .pc, .wait] := by
  refine ⟨fun r hr => ?_, ⟨rfl, rfl⟩, (s.changesOnly_setWithFlag x u c).commit _⟩
  obtain ⟨hx, hf⟩ : r ≠ x ∧ r ≠ 15 := by simpa using hr
  simp [hx, hf]

/-- The flag is what remains in `VF`, also when it is the destination (R106, D11). -/
theorem State.setWithFlag_commit_vf (p : Word) : ((s.setWithFlag x u c).commit p).reg 15 = flagByte c := by simp

/-- The result is in its register, unless that is `VF` (R106). -/
theorem State.setWithFlag_commit_result {x : Reg} (hx : x ≠ 15) (p : Word) :
    ((s.setWithFlag x u c).commit p).reg x = u := by simp [hx]

/-- A difference modulo 256 as an integer (R114). -/
theorem toNat_sub_emod : ((a - b).toNat : Int) = (a.toNat - b.toNat : Int) % 256 := by
  have := a.isLt; have := b.isLt
  rw [BitVec.toNat_sub]; omega

/-- A bit of a byte, as the flag it leaves. -/
theorem flagByte_getLsbD (k : Nat) : (flagByte (a.getLsbD k)).toNat = a.toNat / 2 ^ k % 2 := by
  rw [BitVec.getLsbD, Nat.testBit_eq_decide_div_mod_eq, flagByte]
  have := Nat.mod_two_eq_zero_or_one (a.toNat / 2 ^ k)
  split <;> simp_all

theorem flagByte_lowBit : (flagByte (lowBit a)).toNat = a.toNat % 2 := by
  rw [lowBit, flagByte_getLsbD, pow_zero, Nat.div_one]

theorem flagByte_highBit : (flagByte (highBit a)).toNat = a.toNat / 128 := by
  have := a.isLt
  rw [highBit, flagByte_getLsbD]; omega

theorem flagByte_decide (c : Prop) [Decidable c] : flagByte (decide c) = if c then 1 else 0 := by
  simp [flagByte]

/-- Settles O18: each writes a result and its flag, both computed from the operands before the instruction. -/
theorem addAndSubtractWithFlag : Obligations.AddAndSubtractWithFlag := by
  intro x y s
  refine ⟨⟨wordIs_encXYN rfl rfl, _, exec_addVxVy s x y, ?addFlag, fun hx => ?add, s.setWithFlag_commit_frame x _ _⟩,
    ⟨wordIs_encXYN rfl rfl, _, exec_subVxVy s x y, ?subFlag, fun hx => ?sub, s.setWithFlag_commit_frame x _ _⟩,
    ⟨wordIs_encXYN rfl rfl, _, exec_subnVxVy s x y, ?subnFlag, fun hx => ?subn, s.setWithFlag_commit_frame x _ _⟩⟩
  case addFlag | subFlag | subnFlag => rw [State.setWithFlag_commit_vf]; exact flagByte_decide _
  case add => rw [State.setWithFlag_commit_result _ _ _ hx, BitVec.toNat_add]
  case sub | subn => rw [State.setWithFlag_commit_result _ _ _ hx, toNat_sub_emod]

/-- Settles O19: each writes the shifted value and, as the flag, the bit shifted out of the old one. -/
theorem shiftsByOne : Obligations.ShiftsByOne := by
  intro x y s
  refine ⟨⟨wordIs_encXYN rfl rfl, _, exec_shrVx s x y, ?lowBit, fun hx => ?half, s.setWithFlag_commit_frame x _ _⟩,
    ⟨wordIs_encXYN rfl rfl, _, exec_shlVx s x y, ?highBit, fun hx => ?double, s.setWithFlag_commit_frame x _ _⟩⟩
  case lowBit => rw [State.setWithFlag_commit_vf, flagByte_lowBit]
  case half => rw [State.setWithFlag_commit_result _ _ _ hx, BitVec.toNat_ushiftRight, Nat.shiftRight_eq_div_pow]
  case highBit => rw [State.setWithFlag_commit_vf, flagByte_highBit]
  case double =>
    rw [State.setWithFlag_commit_result _ _ _ hx, BitVec.toNat_shiftLeft, Nat.shiftLeft_eq, Nat.mul_comm]

/-- Settles O20: the register gets the free byte under the mask `kk`, so no bit outside `kk` is left. -/
theorem randomByteMasked : Obligations.RandomByteMasked := by
  intro x kk s
  refine ⟨wordIs_encXKK rfl rfl, _, exec_rndVxKk s x kk, ?byte, ?masked, rfl, fun r hr => ?kept, ⟨rfl, rfl⟩, ?frame⟩
  case byte => simp [State.rnd]
  case masked => simp [BitVec.and_assoc, BitVec.and_not_self]
  case kept =>
    have hne : r ≠ x := by simpa using hr
    simp [hne]
  case frame => exact ((s.changesOnly_setReg_drawn x _).commit _).mono (by simp)

end Sys2Proof.Machine
end

section
/-! PROOFS. Control flow (42_control_flow.md): return, call, jumps and the register skips; parked states. -/

namespace Sys2Proof.Machine

variable {s t : State} {nnn : Addr}

/-! ### Return and call (R126, R127) -/

theorem execRet_of_empty (h : s.sp.toNat = 0) : exec .ret s = .fault (.stackUnderflow s.pc s.opc) :=
  execRet_fault_iff.2 ⟨BitVec.eq_of_toNat_eq h, rfl⟩

theorem execCallNnn_of_full (h : s.sp.toNat = 16) :
    exec (.callNnn nnn) s = .fault (.stackOverflow s.pc s.opc) :=
  execCallNnn_fault_iff.2 ⟨BitVec.eq_of_toNat_eq h, rfl⟩

/-- Settles O21: 00EE pops the stack and commits its most recent slot, and fails on an empty stack. -/
theorem returnPopsAddress : Obligations.ReturnPopsAddress := by
  refine ⟨wordIs_of_encode rfl, fun s => ⟨fun h1 h16 => ?_, execRet_of_empty⟩⟩
  exact ⟨_, execRet_of_used h1 h16, ⟨rfl, rfl⟩, State.pop_sp_toNat h1,
    (s.changesOnly_pop.commit _).mono (by simp)⟩

/-- Settles O22: 2nnn pushes the next instruction's address and commits `nnn`, and fails on a full stack. -/
theorem callPushesReturnAddress : Obligations.CallPushesReturnAddress := by
  refine fun nnn s => ⟨wordIs_encNNN rfl rfl, fun h => ?_, execCallNnn_of_full⟩
  refine ⟨_, execCallNnn_of_free h, ?pushed, fun k hk => ?others, State.push_sp_toNat s.npc h, addrWord_toNat nnn, rfl,
    ((s.changesOnly_push _).commit _).mono (by simp)⟩
  case pushed => rw [State.commit_slot, s.slot_push _ _ (by omega), if_pos rfl, State.npc]
  case others => rw [State.commit_slot, s.slot_push _ _ (by omega), if_neg hk]

/-- Settles O23: the return pops the slot that the call pushed. -/
theorem callThenReturnResumes : Obligations.CallThenReturnResumes := by
  intro nnn s h
  obtain ⟨-, hcall, -⟩ := callPushesReturnAddress nnn s
  obtain ⟨t, ht, hpushed, hothers, hsp, -, -, hframe⟩ := hcall h
  obtain ⟨-, hret⟩ := returnPopsAddress
  obtain ⟨u, hu, hat, hsp', hframe'⟩ := (hret t).1 (by omega) (by omega)
  refine ⟨t, ht, u, hu, ?resumes, BitVec.eq_of_toNat_eq (by omega), fun k hk => ?slots, ?frame⟩
  case resumes =>
    rwa [hsp, Nat.add_sub_cancel, hpushed] at hat
  case slots => rw [hframe' .stack (by simp), hothers k (by omega)]
  case frame =>
    intro p hp
    by_cases hpsp : p = .sp
    · subst hpsp; exact BitVec.eq_of_toNat_eq (by omega)
    · exact hframe.trans hframe' p (by simp_all)

/-- Calls from a stack with room for them all complete, and each fills one slot (R127, R134). -/
theorem callAll_completes (addrs : List Addr) (s : State) (h : s.sp.toNat + addrs.length ≤ 16) :
    ∃ t, callAll addrs s = .next t ∧ t.sp.toNat = s.sp.toNat + addrs.length := by
  induction addrs generalizing s with
  | nil => exact ⟨s, rfl, rfl⟩
  | cons a rest ih =>
    rw [List.length_cons] at *
    obtain ⟨-, hcall, -⟩ := callPushesReturnAddress a s
    obtain ⟨t, ht, -, -, hsp, -⟩ := hcall (by omega)
    obtain ⟨u, hu, hsp'⟩ := ih t (by omega)
    exact ⟨u, by rw [callAll, ht]; exact hu, by omega⟩

/-- Settles O24: the sixteen calls fill the sixteen slots, and a call on a full stack fails. -/
theorem sixteenCallsNest : Obligations.SixteenCallsNest := by
  intro addrs nnn s hlen hsp
  have hsp0 : s.sp.toNat = 0 := congrArg BitVec.toNat hsp
  obtain ⟨t, ht, hfull⟩ := callAll_completes addrs s (by omega)
  have hfull : t.sp.toNat = 16 := by omega
  exact ⟨t, ht, hfull, execCallNnn_of_full hfull⟩

/-! ### Jumps (R128, R129) -/

/-- The sum of Bnnn is whole: it needs 13 bits (R129). -/
theorem addrWord_add_byteWord_toNat (nnn : Addr) (u : Byte) :
    (addrWord nnn + byteWord u).toNat = nnn.toNat + u.toNat := by
  rw [BitVec.toNat_add, addrWord_toNat, byteWord_toNat]; omega

/-- Settles O25: both commit their target, and a fetch at 4095 or above fails. -/
theorem jumpsStoreTheirTarget : Obligations.JumpsStoreTheirTarget := by
  refine fun nnn s => ⟨
    ⟨wordIs_encNNN rfl rfl, _, exec_jpNnn s nnn, addrWord_toNat nnn, rfl, s.changesOnly_commit _, ?_⟩,
    ⟨wordIs_encNNN rfl rfl, _, exec_jpV0Nnn s nnn, addrWord_add_byteWord_toNat nnn _, rfl, s.changesOnly_commit _, ?_⟩⟩
  all_goals exact fun h => step_of_ge (by omega)

/-- Settles O46: the jump commits `pc` itself, which has 12 bits. -/
theorem parkedStateStays : Obligations.ParkedStateStays := by
  intro s h
  obtain ⟨hfetch, hd⟩ := Bool.and_eq_true_iff.1 h
  have hlt := s.canFetch_iff.1 hfetch
  have hpc : addrWord (s.pc.extractLsb' 0 12) = s.pc :=
    BitVec.eq_of_toNat_eq (by rw [addrWord_toNat, BitVec.extractLsb'_toNat, Nat.shiftRight_zero]; omega)
  rw [step_of_decoded hlt (beq_iff_eq.1 hd), exec_jpNnn, hpc]
  rfl

/-! ### The register skips (R132, R133) -/

/-- A word of format XY with a last digit that its row does not have is no instruction (R79, R80, D3). -/
theorem not_wordIs_of_last_digit {op n : Nibble} {x y : Reg} {base : Nat} {i : Instr}
    (hop : op.toNat = 5 ∨ op.toNat = 9) (hb : base = 4096 * op.toNat) (hn : 1 ≤ n.toNat) :
    ¬ wordIs (base + 256 * x.val + 16 * y.val + n.toNat) i := by
  have hn0 : n ≠ 0#4 := fun e => by rw [e] at hn; exact absurd hn (by decide)
  rw [wordIs, hb, ← encXYN_eq]
  rcases hop with hop | hop <;> simp [decodeWord, hop, hn0]

/-- Settles O27: both are one conditional skip, and a last digit other than 0 is an unknown word. -/
theorem registerSkips : Obligations.RegisterSkips := by
  intro x y s
  refine ⟨⟨wordIs_encXYN rfl rfl, _, exec_seVxVy s x y, ?equal, s.skipIf_changesOnly _⟩,
    ⟨wordIs_encXYN rfl rfl, _, exec_sneVxVy s x y, ?differ, s.skipIf_changesOnly _⟩,
    fun n i hn => ⟨not_wordIs_of_last_digit (op := 5) (.inl rfl) rfl hn,
      not_wordIs_of_last_digit (op := 9) (.inr rfl) rfl hn⟩⟩
  case equal => simpa [BitVec.toNat_inj] using s.skipIf_okAt (s.reg x == s.reg y)
  case differ => simpa [BitVec.toNat_inj] using s.skipIf_okAt (s.reg x != s.reg y)

end Sys2Proof.Machine
end

section
/-! PROOFS. Index and memory transfer (43_memory_transfer.md). -/

namespace Sys2Proof.Machine

variable {s : State}

/-! ### The index register (R140 to R142) -/

theorem index_add_byteWord_toNat (w : Word) (u : Byte) : (w + byteWord u).toNat = (w.toNat + u.toNat) % 65536 := by
  rw [BitVec.toNat_add, byteWord_toNat]

/-- Settles O28: both write `I` and commit. -/
theorem indexLoadAndAdd : Obligations.IndexLoadAndAdd := fun nnn x s =>
  ⟨⟨wordIs_encNNN rfl rfl, _, exec_ldINnn s nnn, addrWord_toNat nnn, ⟨rfl, rfl⟩, (s.changesOnly_setIndex _).commit _⟩,
    ⟨wordIs_encX rfl rfl, _, exec_addIVx s x, index_add_byteWord_toNat _ _, ⟨rfl, rfl⟩,
      (s.changesOnly_setIndex _).commit _⟩⟩

/-- Settles O29: it writes the glyph's address, which needs no more than 16 bits, and commits. -/
theorem glyphAddress : Obligations.GlyphAddress := fun x s =>
  ⟨wordIs_encX rfl rfl, _, exec_ldFVx s x, glyphAddr_toNat _, ⟨rfl, rfl⟩, (s.changesOnly_setIndex _).commit _⟩

/-! ### Stores (R143, R144) -/

/-- The state after a store of bytes from `I` on, committed. -/
def State.stored (s : State) (us : List Byte) : State :=
  (s.setMem (s.mem.writeList (s.ea 0) us)).commit s.npc

theorem State.stored_changesOnly (us : List Byte) : s.changesOnly (s.stored us) [.mem, .pc, .wait] :=
  (s.changesOnly_setMem _).commit _

/-- The byte of the list at its place. -/
theorem State.stored_read_ea {us : List Byte} {k : Nat} (h : k < us.length) :
    (s.stored us).mem.read (s.ea k) = us[k] :=
  Memory.read_writeList_inside s.mem (s.ea 0) k us h

/-- No other byte is written. -/
theorem State.stored_keepsBytes {us : List Byte} {n : Nat} (h : us.length = n) :
    s.keepsBytes (s.stored us) (s.ea 0) n :=
  fun b hb => Memory.read_writeList_outside s.mem (s.ea 0) b us (h ▸ hb)

@[simp] theorem length_decimalDigits (u : Byte) : (decimalDigits u).length = 3 := rfl

/-- The three bytes stored are the three digits, since a digit fits a byte (R143). -/
theorem toNat_decimalDigits (u : Byte) :
    ((decimalDigits u)[0]'(by simp)).toNat = u.toNat / 100 ∧
    ((decimalDigits u)[1]'(by simp)).toNat = u.toNat / 10 % 10 ∧
    ((decimalDigits u)[2]'(by simp)).toNat = u.toNat % 10 := by
  have := u.isLt
  refine ⟨?_, ?_, ?_⟩ <;> simp only [decimalDigits, List.getElem_cons_zero, List.getElem_cons_succ, BitVec.toNat_ofNat]
  all_goals omega

theorem ldBVx_completes (x : Reg) (h : s.ea 2 < 4096) :
    exec (.ldBVx x) s = .next (s.stored (decimalDigits (s.reg x))) :=
  State.access_of_inRange (n := 3) (.inr h)

theorem ldMemIVx_completes {x : Reg} (h : s.ea x.val < 4096) :
    exec (.ldMemIVx x) s = .next (s.stored (s.regsUpTo x)) :=
  State.access_of_inRange (n := x.val + 1) (.inr h)

/-- Settles O30: the store of the digit list, or the bound check's error. -/
theorem storesDecimalDigits : Obligations.StoresDecimalDigits := by
  refine fun x s => ⟨wordIs_encX rfl rfl, fun h => ⟨_, ldBVx_completes x h, ?_⟩,
    fun h => State.access_of_overrun (n := 3) (by omega) h⟩
  obtain ⟨hundreds, tens, ones⟩ := toNat_decimalDigits (s.reg x)
  refine ⟨?_, ?_, ?_, State.stored_keepsBytes rfl, ⟨rfl, rfl⟩, State.stored_changesOnly _⟩
  · rwa [State.stored_read_ea]
  · rwa [State.stored_read_ea]
  · rwa [State.stored_read_ea]

/-- Settles O31: the store of the register list, or the bound check's error. -/
theorem storesRegisters : Obligations.StoresRegisters := by
  refine fun x s => ⟨wordIs_encX rfl rfl, fun h => ⟨_, ldMemIVx_completes h, fun r hr => ?bytes,
    State.stored_keepsBytes (s.length_regsUpTo x), ⟨rfl, rfl⟩, State.stored_changesOnly _⟩,
    fun h => State.access_of_overrun (n := x.val + 1) (by omega) h⟩
  case bytes =>
    have hlen : r.val < (s.regsUpTo x).length := by rw [s.length_regsUpTo]; omega
    rw [State.stored_read_ea hlen, s.getElem_regsUpTo]

/-- Settles O33: the two bytes at the next program counter are `V0` and `V1`, just stored. -/
theorem storeSeenByNextFetch : Obligations.StoreSeenByNextFetch := by
  intro x s hx hpc hend
  obtain ⟨-, hstore, -⟩ := storesRegisters x s
  obtain ⟨t, ht, hbytes, -, ⟨hat, -⟩, -⟩ := hstore hend
  have hea : s.ea x.val = s.ea 0 + x.val := by rw [← s.ea_add, Nat.zero_add]
  have hnext : t.pc.toNat = s.ea 0 := by
    rw [hat, ← hpc]; exact BitVec.toNat_add_of_lt (by simp; omega)
  have hv0 : t.mem.read (s.ea 0) = s.reg 0 := hbytes 0 (Nat.zero_le _)
  have hv1 : t.mem.read (s.ea 0 + 1) = s.reg 1 := hbytes 1 hx
  refine ⟨t, ht, (State.fetch_of_lt (by omega)).trans ?_⟩
  rw [State.fetchWord, hnext, hv0, hv1]

/-! ### Loads (R145) -/

/-- Settles O32: the registers up to `Vx` from memory, or the bound check's error. -/
theorem loadsRegisters : Obligations.LoadsRegisters := by
  refine fun x s => ⟨wordIs_encX rfl rfl, fun h => ⟨_, State.access_of_inRange (n := x.val + 1) (.inr h),
    fun r hr => ?loaded, fun r hr => ?kept, ⟨rfl, rfl⟩, (s.changesOnly_loadRegs x).commit _⟩,
    fun h => State.access_of_overrun (n := x.val + 1) (by omega) h⟩
  case loaded => rw [State.commit_reg, State.reg_loadRegs, if_pos hr]
  case kept => rw [State.commit_reg, State.reg_loadRegs, if_neg (by omega)]

end Sys2Proof.Machine
end

section
/-! PROOFS. Keypad and timers (44_input_timers.md). -/

namespace Sys2Proof.Machine

variable {s : State}

/-- Settles O34: a key number gives one conditional skip on that key's flag; any other fails the key check. -/
theorem keySkips : Obligations.KeySkips := by
  refine fun x s => ⟨wordIs_encX rfl rfl, wordIs_encX rfl rfl, fun k hk => ⟨?pressed, ?released⟩,
    fun h => ⟨(exec_skpVx s x).trans (State.withKey_of_gt h), (exec_sknpVx s x).trans (State.withKey_of_gt h)⟩⟩
  case pressed => exact ⟨_, (exec_skpVx s x).trans (State.withKey_of_le hk), s.skipIf_okAt _, s.skipIf_changesOnly _⟩
  case released =>
    refine ⟨_, (exec_sknpVx s x).trans (State.withKey_of_le hk), ?_, s.skipIf_changesOnly _⟩
    have hat := s.skipIf_okAt (!s.key k)
    cases hkey : s.key k <;> simpa [hkey] using hat

/-- A pressed key below which none is pressed is the lowest pressed key (R152, D15). -/
theorem State.lowestKey_of_lowest {k : Fin 16} (hk : s.key k = true)
    (hlow : ∀ j : Fin 16, j.val < k.val → s.key j = false) : s.lowestKey = some k := by
  cases h : s.lowestKey with
  | none => rw [s.lowestKey_eq_none_iff.1 h k] at hk; cases hk
  | some j =>
    obtain ⟨hj, hjlow⟩ := State.lowestKey_eq_some h
    have hle : k.val ≤ j.val := not_lt.1 fun hlt => by rw [hlow j hlt] at hj; cases hj
    have hge : j.val ≤ k.val := not_lt.1 fun hlt => by rw [hjlow k hlt] at hk; cases hk
    rw [Fin.ext (le_antisymm hge hle)]

/-- Settles O35: with no key pressed the instruction waits, else it writes the number of the lowest pressed key. -/
theorem waitsForKey : Obligations.WaitsForKey := by
  refine fun x s => ⟨wordIs_encX rfl rfl, fun hnone => ?waits, fun k hk hlow => ?takes⟩
  case waits => rw [exec_ldVxK, s.lowestKey_eq_none_iff.2 hnone]; rfl
  case takes =>
    refine ⟨_, by rw [exec_ldVxK, State.lowestKey_of_lowest hk hlow], ?number, s.setReg_commit_frame x _⟩
    rw [State.commit_reg, State.reg_setReg, if_pos rfl, BitVec.toNat_ofNat]; omega

/-- Settles O36: each moves one byte between a register and a timer, and commits. -/
theorem timerMoves : Obligations.TimerMoves := by
  refine fun x s => ⟨⟨wordIs_encX rfl rfl, _, exec_ldVxDt s x, ?value, s.setReg_commit_frame x _⟩,
    ⟨wordIs_encX rfl rfl, _, exec_ldDtVx s x, rfl, ⟨rfl, rfl⟩, (s.changesOnly_setDt _).commit _⟩,
    ⟨wordIs_encX rfl rfl, _, exec_ldStVx s x, rfl, ⟨rfl, rfl⟩, (s.changesOnly_setSt _).commit _⟩⟩
  case value => rw [State.commit_reg, State.reg_setReg, if_pos rfl]

end Sys2Proof.Machine
end

section
/-! PROOFS. The host's events (60_exceptions.md, 70_reset_and_hazards.md). -/

namespace Sys2Proof.Machine

variable {s : State}

/-! ### Frames of the events -/

variable (s) in
theorem State.changesOnly_tick : s.changesOnly (Events.tick s) [.dt, .st] :=
  (s.changesOnly_setDt _).trans (State.changesOnly_setSt _ _)

variable (s) in
theorem State.changesOnly_keys (k : BitVec 16) : s.changesOnly (Events.keys k s) [.keys] := by
  simp [State.changesOnly_iff]

/-- Settles O43: both timers are counted down, and nothing else is written. -/
theorem tickCountsDown : Obligations.TickCountsDown := fun _ s =>
  ⟨_, rfl, Events.countDown_toNat s.dt, Events.countDown_toNat s.st, s.changesOnly_tick⟩

/-! ### `LOAD` (R204, R205) -/

theorem Events.load_of_le {font : Font} {bytes : List Byte} (h : bytes.length ≤ 3584) :
    Events.apply font (.load bytes) s = (.ok, Events.loaded bytes s) := if_pos h

theorem Events.load_of_gt {font : Font} {bytes : List Byte} (h : 3584 < bytes.length) :
    Events.apply font (.load bytes) s = (.hostErr (.programTooLarge bytes.length), s) := if_neg (not_le.2 h)

/-- Settles O42: the program is one stored list of bytes, or the event is an error. -/
theorem loadCopiesProgram : Obligations.LoadCopiesProgram := by
  refine fun font bytes s => ⟨fun h => ?_, Events.load_of_gt⟩
  rw [Events.load_of_le h]
  exact ⟨rfl, fun j hj => Memory.read_writeList_inside s.mem 0x200 j bytes hj,
    fun b hb => Memory.read_writeList_outside s.mem 0x200 b bytes hb, s.changesOnly_setMem _⟩

/-! ### `RESET` (R200) -/

/-- Storing the bytes that unlisted addresses read as leaves the empty list of cells empty. -/
theorem Memory.writeList_initial (us : List Byte) (a : Nat)
    (h : ∀ (j : Nat) (hj : j < us.length), us[j] = Memory.initial (a + j)) : Memory.writeList [] a us = [] := by
  induction us generalizing a with
  | nil => rfl
  | cons u us ih =>
    have hu : u = Memory.initial a := h 0 (Nat.zero_lt_succ _)
    rw [Memory.writeList, Memory.write, if_pos hu]
    refine ih (a + 1) fun j hj => ?_
    rw [Nat.add_assoc, Nat.add_comm 1 j]
    exact h (j + 1) (Nat.succ_lt_succ hj)

/-- The default font is what unlisted addresses read as (R56, R58). -/
theorem Memory.initial_font (j : Nat) (hj : j < Config.font.toList.length) :
    Config.font.toList[j] = Memory.initial (Config.fontBase + j) := by
  have hj' : j < 80 := by simpa using hj
  rw [Memory.initial, dif_pos ⟨Nat.le_add_right _ _, by omega⟩]
  simp

theorem Memory.initial_outside_font {a : Nat} (h : a < 0x050 ∨ 0x0A0 ≤ a) : Memory.initial a = 0 := by
  rw [Memory.initial, dif_neg]
  simp only [Config.fontBase]; omega

/-- Settles O40: the cells other than memory are those of `State.reset`, memory is the stored font, and for the default
font that store lists no cell. -/
theorem resetLeavesInitialState : Obligations.ResetLeavesInitialState := by
  intro font s
  refine ⟨?reg, rfl, rfl, ?slot, rfl, rfl, rfl, ?key, ?pixel, rfl, rfl, fun j => ?font, fun a ha => ?zero, ?default⟩
  case reg => simp [Events.apply, Events.resetWith, State.reset, State.reg]
  case slot =>
    intro k
    simp only [Events.apply, Events.resetWith, State.reset, State.slot, Vector.getElem?_replicate]
    split <;> rfl
  case key => simp [Events.apply, Events.resetWith, State.reset, State.key]
  case pixel => exact fun py px => Framebuffer.pixel_clear py px
  case font =>
    have hj : j.val < font.toList.length := by simp
    exact (Memory.read_writeList_inside [] Config.fontBase j font.toList hj).trans (by simp)
  case zero =>
    exact (Memory.read_writeList_outside [] Config.fontBase a font.toList (by simpa using ha)).trans
      (Memory.initial_outside_font ha)
  case default =>
    rw [Events.apply, Events.resetWith, Memory.writeList_initial _ _ Memory.initial_font]
    rfl

/-- Settles O41: `RESET` keeps only the counter of draws, which no `LOAD` reads. -/
theorem resetThenLoadForgetsThePast : Obligations.ResetThenLoadForgetsThePast := by
  intro font rom s₁ s₂
  by_cases h : rom.length ≤ 3584
  · simp only [Events.run, Events.load_of_le h]; rfl
  · simp only [Events.run, Events.load_of_gt (not_le.1 h)]; rfl

/-! ### `KEYS` (R184) -/

/-- Settles O44: `KEYS` writes the keypad alone; the step's frame and the frames of the other events hold no key. -/
theorem keysAreLatched : Obligations.KeysAreLatched := by
  refine fun font k s => ⟨⟨_, rfl, fun i => Events.keys_key s k i, s.changesOnly_keys k⟩, fun t h => step_key h,
    fun e hreset hkeys hpoke i => ?_⟩
  cases e with
  | reset => exact absurd rfl hreset
  | keys j => exact absurd rfl (hkeys j)
  | poke p => exact absurd rfl (hpoke p)
  | tick | peek => rfl
  | load bytes =>
    dsimp only [Events.apply]
    split <;> rfl
  | step =>
    dsimp only [Events.apply, Events.step]
    split
    case h_1 t ht => exact step_key ht i
    case h_2 | h_3 => rfl

/-! ### `POKE` and `PEEK` (R190) -/

/-- Settles O45: each number is checked against its range, in range the written cell is the one that is read. -/
theorem pokeThenPeek : Obligations.PokeThenPeek := by
  intro font n a u s
  refine ⟨fun hn => ⟨s.setReg ⟨n, hn⟩ u, dif_pos hn, ?regRead, fun r hr => ?regKept, s.changesOnly_setReg _ _⟩,
    fun hn => ⟨dif_neg (not_lt.2 hn), ?regBad⟩,
    fun ha => ⟨s.setMem (s.mem.write a u), if_pos ha, ?memRead, fun b hb => ?memKept, s.changesOnly_setMem _⟩,
    fun ha => ⟨if_neg (not_lt.2 ha), ?memBad⟩⟩
  case regRead => simp [Events.apply, Events.peek, hn]
  case regKept =>
    have hne : r ≠ ⟨n, hn⟩ := by simpa using hr
    rw [State.reg_setReg, if_neg hne]
  case regBad => simp [Events.apply, Events.peek, hn]
  case memRead => simp [Events.apply, Events.peek, Config.memSize, ha]
  case memKept => rw [State.setMem_mem, Memory.read_write, if_neg (by omega)]
  case memBad => simp [Events.apply, Events.peek, Config.memSize, ha]

/-! ### The invariant (R40) -/

theorem Events.resetWith_inv (font : Font) (s : State) : (Events.resetWith font s).Inv := by
  obtain ⟨-, hsp, hslot, hpc⟩ := resetMeetsInvariant
  exact ⟨Memory.wf_writeList _ Memory.wf_reset (by simp [Config.fontBase, Config.memSize]), hsp, hslot, hpc⟩

theorem Events.loaded_inv {bytes : List Byte} (h : bytes.length ≤ 3584) (hs : s.Inv) :
    (Events.loaded bytes s).Inv := by
  obtain ⟨hm, hrest⟩ := hs
  exact ⟨Memory.wf_writeList bytes hm (by simp only [Config.progBase, Config.memSize]; omega), hrest⟩

theorem Events.keys_inv (k : BitVec 16) (hs : s.Inv) : (Events.keys k s).Inv := by
  simpa only [State.Inv, Events.keys_mem, Events.keys_sp, Events.keys_slot, Events.keys_pc] using hs

/-- Every event but `POKE` keeps the invariant. -/
theorem Events.apply_inv (font : Font) {e : Event} (he : ∀ p, e ≠ .poke p) (hs : s.Inv) :
    (Events.apply font e s).2.Inv := by
  cases e with
  | poke p => exact absurd rfl (he p)
  | reset => exact Events.resetWith_inv font s
  | tick | peek => exact hs
  | keys k => exact Events.keys_inv k hs
  | load bytes =>
    by_cases h : bytes.length ≤ 3584
    · rw [Events.load_of_le h]; exact Events.loaded_inv h hs
    · rw [Events.load_of_gt (not_le.1 h)]; exact hs
  | step =>
    dsimp only [Events.apply, Events.step]
    split
    case h_1 t ht => exact stepKeepsInvariant s t hs ht
    case h_2 | h_3 => exact hs

/-- Settles O49: by induction on the events, each of which keeps the invariant. -/
theorem eventsKeepInvariant : Obligations.EventsKeepInvariant := by
  intro font es
  induction es with
  | nil => exact fun s _ hs => hs
  | cons e es ih =>
    intro s hes hs
    obtain ⟨he, hes⟩ := List.forall_mem_cons.1 hes
    exact ih _ hes (Events.apply_inv font he hs)

end Sys2Proof.Machine
end

section
/-! PROOFS. The display (45_display.md): the drawing loop as one XOR over the covered pixels, and drawing twice. -/

namespace Sys2Proof.Machine

/-- A pixel under a set bit of one sprite row at column `x0` of screen row `y` (R161). -/
def RowCovers (row : Byte) (x0 y : Nat) (py : Fin 32) (px : Fin 64) : Prop :=
  py.val = y % 32 ∧ ∃ k < 8, px.val = (x0 + k) % 64 ∧ row.getLsbD (7 - k) = true

/-- A pixel under a set bit of a list of sprite rows, the first at screen row `y` (R161). -/
def RowsCover (rows : List Byte) (x0 y : Nat) (py : Fin 32) (px : Fin 64) : Prop :=
  ∃ (r : Nat) (h : r < rows.length), RowCovers rows[r] x0 (y + r) py px

variable {row : Byte} {rows : List Byte} {x0 y : Nat} {py : Fin 32} {px : Fin 64}

theorem rowsCover_nil : ¬ RowsCover [] x0 y py px := fun ⟨_, h, _⟩ => absurd h (Nat.not_lt_zero _)

theorem rowsCover_cons :
    RowsCover (row :: rows) x0 y py px ↔ RowCovers row x0 y py px ∨ RowsCover rows x0 (y + 1) py px := by
  constructor
  · rintro ⟨r, h, hc⟩
    cases r with
    | zero => exact .inl hc
    | succ r => exact .inr ⟨r, Nat.lt_of_succ_lt_succ h, by rwa [Nat.add_assoc, Nat.add_comm 1 r]⟩
  · rintro (hc | ⟨r, h, hc⟩)
    · exact ⟨0, Nat.zero_lt_succ _, hc⟩
    · exact ⟨r + 1, Nat.succ_lt_succ h, by rwa [Nat.add_assoc, Nat.add_comm 1 r] at hc⟩

/-- Rows that are distinct modulo 32 cover distinct pixels (R162 (c)). -/
theorem RowCovers.not_rowsCover (h : RowCovers row x0 y py px) (hlen : rows.length < 32) :
    ¬ RowsCover rows x0 (y + 1) py px := by
  rintro ⟨r, hr, hrow, -⟩
  obtain ⟨hy, -⟩ := h
  omega

/-- Toggling twice in disjoint sets of pixels is toggling once in their union. -/
theorem xor_iff_or {p a b : Prop} (hab : a → ¬ b) : ((p ↔ ¬ a) ↔ ¬ b) ↔ (p ↔ ¬ (a ∨ b)) := by
  by_cases ha : a
  · simp [ha, hab ha]
  · simp [ha]

/-- The whole loop toggles exactly the covered pixels (R161). -/
theorem Canvas.drawRows_pixel (hlen : rows.length ≤ 32) (c : Canvas) :
    (c.drawRows x0 y rows).fb.pixel py px = true ↔
      (c.fb.pixel py px = true ↔ ¬ RowsCover rows x0 y py px) := by
  induction rows generalizing c y with
  | nil => simp [Canvas.drawRows, rowsCover_nil]
  | cons row rows ih =>
    rw [Canvas.drawRows, ih (Nat.le_of_succ_le hlen), Canvas.drawRow_pixel, rowsCover_cons]
    exact xor_iff_or fun h : RowCovers row x0 y py px => h.not_rowsCover hlen

/-- A collision of one row, by pixel (R161). -/
theorem Canvas.drawRow_coll_iff (c : Canvas) : (c.drawRow row x0 y).coll = true ↔
    c.coll = true ∨ ∃ py px, c.fb.pixel py px = true ∧ RowCovers row x0 y py px := by
  rw [Canvas.drawRow_coll]
  refine or_congr_right ⟨?_, ?_⟩
  · rintro ⟨k, hk, hbit, hp⟩
    exact ⟨_, _, hp, rfl, k, hk, rfl, hbit⟩
  · rintro ⟨py, px, hp, hy, k, hk, hx, hbit⟩
    obtain rfl : py = Fin.ofNat 32 y := Fin.ext hy
    obtain rfl : px = Fin.ofNat 64 (x0 + k) := Fin.ext hx
    exact ⟨k, hk, hbit, hp⟩

/-- The collision bit of the whole loop: a covered pixel was set before the first row (R161). -/
theorem Canvas.drawRows_coll (hlen : rows.length ≤ 32) (c : Canvas) :
    (c.drawRows x0 y rows).coll = true ↔
      c.coll = true ∨ ∃ py px, c.fb.pixel py px = true ∧ RowsCover rows x0 y py px := by
  induction rows generalizing c y with
  | nil => simp [Canvas.drawRows, rowsCover_nil]
  | cons row rows ih =>
    rw [Canvas.drawRows, ih (Nat.le_of_succ_le hlen), Canvas.drawRow_coll_iff, or_assoc]
    simp only [rowsCover_cons, and_or_left, exists_or]
    refine or_congr_right (or_congr_right (exists_congr fun py => exists_congr fun px => and_congr_left fun hc => ?_))
    have hrow : ¬ RowCovers row x0 y py px := fun h => h.not_rowsCover hlen hc
    exact (Canvas.drawRow_pixel ..).trans ⟨fun h => h.2 hrow, fun h => ⟨fun _ => hrow, fun _ => h⟩⟩

/-! ### Dxyn (R161) -/

variable {s : State} {x y : Reg} {n : Nibble}

/-- The pixels that Dxyn toggles in a state: those its sprite covers. -/
def State.spriteCovers (s : State) (x y : Reg) (n : Nibble) (py : Fin 32) (px : Fin 64) : Prop :=
  s.covers (s.ea 0) (s.reg x).toNat (s.reg y).toNat n.toNat py px

/-- The rows read from memory cover the pixels that the sprite in memory covers. -/
theorem rowsCover_readList (a x0 y0 n : Nat) :
    RowsCover (s.mem.readList a n) x0 y0 py px ↔ s.covers a x0 y0 n py px := by
  constructor
  · rintro ⟨r, hr, hy, k, hk, hx, hbit⟩
    rw [Memory.getElem_readList] at hbit
    exact ⟨r, by rwa [Memory.length_readList] at hr, k, hk, hy, hx, hbit⟩
  · rintro ⟨r, hr, k, hk, hy, hx, hbit⟩
    exact ⟨r, by rwa [Memory.length_readList], hy, k, hk, hx, by rwa [Memory.getElem_readList]⟩

theorem length_sprite_le : (s.mem.readList (s.ea 0) n.toNat).length ≤ 32 := by
  rw [Memory.length_readList]; omega

theorem State.draw_pixel : (s.draw x y n).fb.pixel py px = true ↔
    (s.fb.pixel py px = true ↔ ¬ s.spriteCovers x y n py px) := by
  rw [State.spriteCovers, ← rowsCover_readList]
  exact Canvas.drawRows_pixel length_sprite_le _

theorem State.draw_coll : (s.draw x y n).coll = true ↔
    ∃ py px, s.fb.pixel py px = true ∧ s.spriteCovers x y n py px := by
  simp only [State.spriteCovers, ← rowsCover_readList]
  exact (Canvas.drawRows_coll length_sprite_le _).trans (by simp)

/-- The state after Dxyn inside memory. -/
def State.drawnSprite (s : State) (x y : Reg) (n : Nibble) : State :=
  ((s.setFb (s.draw x y n).fb).setReg Reg.vf (flagByte (s.draw x y n).coll)).commit s.npc

theorem drwVxVyN_completes (h : n.toNat = 0 ∨ s.ea (n.toNat - 1) < 4096) :
    exec (.drwVxVyN x y n) s = .next (s.drawnSprite x y n) := State.access_of_inRange h

theorem flagByte_eq_one_iff (b : Bool) : flagByte b = 1 ↔ b = true := by cases b <;> decide

theorem flagByte_zero_or_one (b : Bool) : flagByte b = 0 ∨ flagByte b = 1 := by cases b <;> decide

/-- `VF` after Dxyn is the collision bit. -/
theorem State.drawnSprite_vf : (s.drawnSprite x y n).reg 15 = flagByte (s.draw x y n).coll := by
  rw [State.drawnSprite, State.commit_reg, State.reg_setReg, if_pos rfl]

theorem State.drawnSprite_reg {r : Reg} (hr : r ≠ 15) : (s.drawnSprite x y n).reg r = s.reg r := by
  rw [State.drawnSprite, State.commit_reg, State.reg_setReg, if_neg hr, State.setFb_reg]

theorem State.drawnSprite_changesOnly : s.changesOnly (s.drawnSprite x y n) [.regs, .fb, .pc, .wait] :=
  (s.changesOnly_setFb_setReg _ _ _).commit _

/-- Settles O38: the loop's pixels and its collision bit by covered pixels, or the bound check's error. -/
theorem drawIsXorOfCoveredPixels : Obligations.DrawIsXorOfCoveredPixels := by
  refine fun x y n s => ⟨wordIs_encXYN_add rfl rfl,
    fun h => ⟨_, drwVxVyN_completes h, fun py px => State.draw_pixel, ?_, ?_,
      fun r hr => State.drawnSprite_reg (by simpa using hr), ⟨rfl, rfl⟩, State.drawnSprite_changesOnly⟩,
    fun h1 h => State.access_of_overrun h1 h⟩
  · rw [State.drawnSprite_vf]; exact flagByte_zero_or_one _
  · rw [State.drawnSprite_vf, flagByte_eq_one_iff]; exact State.draw_coll

/-! ### Drawing twice (R162) -/

/-- A draw whose coordinates are not `VF` leaves the pixels that its sprite covers as they are. -/
theorem State.drawnSprite_covers (hx : x ≠ 15) (hy : y ≠ 15) :
    (s.drawnSprite x y n).spriteCovers x y n py px ↔ s.spriteCovers x y n py px := by
  rw [State.spriteCovers, State.drawnSprite_reg hx, State.drawnSprite_reg hy]
  rfl

/-- On a screen position of its own every set bit of the sprite covers a pixel (R161). -/
theorem exists_covers_iff {a x0 y0 n : Nat} :
    (∃ py px, s.covers a x0 y0 n py px) ↔ ∃ r b, r < n ∧ b < 8 ∧ (s.mem.read (a + r)).getLsbD b = true := by
  constructor
  · rintro ⟨py, px, r, hr, k, hk, -, -, hbit⟩
    exact ⟨r, 7 - k, hr, by omega, hbit⟩
  · rintro ⟨r, b, hr, hb, hbit⟩
    exact ⟨Fin.ofNat 32 (y0 + r), Fin.ofNat 64 (x0 + (7 - b)), r, hr, 7 - b, by omega, rfl, rfl,
      by rwa [show 7 - (7 - b) = b by omega]⟩

theorem xor_xor_iff {p a : Prop} : ((p ↔ ¬ a) ↔ ¬ a) ↔ p := by
  by_cases ha : a <;> simp [ha]

/-- Settles O39: the second draw toggles the same pixels again, and a covered pixel is set for it exactly when it was
clear for the first. -/
theorem drawTwiceRestores : Obligations.DrawTwiceRestores := by
  intro x y n s hx hy h
  have hvf : ((s.drawnSprite x y n).drawnSprite x y n).reg 15 = 1 ↔
      ∃ py px, s.fb.pixel py px = false ∧ s.spriteCovers x y n py px := by
    rw [State.drawnSprite_vf, flagByte_eq_one_iff, State.draw_coll]
    refine exists_congr fun py => exists_congr fun px => ?_
    rw [State.drawnSprite_covers hx hy]
    refine and_congr_left fun hc => State.draw_pixel.trans ?_
    simp [hc]
  refine ⟨_, drwVxVyN_completes h, _, drwVxVyN_completes h, fun py px => ?restored, hvf, fun hclear => ?clear⟩
  case restored =>
    rw [Bool.eq_iff_iff]
    refine State.draw_pixel.trans ?_
    rw [State.drawnSprite_covers hx hy]
    exact (iff_congr State.draw_pixel Iff.rfl).trans xor_xor_iff
  case clear =>
    rw [hvf]
    simp only [hclear, true_and]
    exact exists_covers_iff

end Sys2Proof.Machine
end
